-- ==== Sys2Proof/Word.lean ====
section
/-! DEFINITION. The two word types of the block (spec/00_scope.md R5, section 5.1; R6).
All arithmetic on them is BitVec's `+`, which wraps modulo 2^8 and modulo 2^16 as R6 asks (`+8`, `+16`). -/

namespace Sys2Proof

/-- `u8`: the contents of A, X, Y, SP, of a memory byte, of an opcode byte or an operand byte. -/
abbrev Byte := BitVec 8

/-- `u16`: the contents of PC and an address of the 65,536-byte space. -/
abbrev Word := BitVec 16

end Sys2Proof
end

