-- ==== Sys2Proof/Machine/Bytes.lean ====
section
/-! DEFINITION. The byte-order and widening helpers of spec/00_scope.md section 5.1 and spec/20_memory.md R47. -/

namespace Sys2Proof

/-- `zext_16(b)`: a byte widened with zeros in bits 15 to 8. -/
def zext16 (b : Byte) : Word := b.setWidth 16

/-- `hi:lo`, the value `hi * 256 + lo`. -/
def hiLo (hi lo : Byte) : Word := hi ++ lo

/-- `v[7:0]`. -/
def loByte (v : Word) : Byte := v.setWidth 8

/-- `v[15:8]`. -/
def hiByte (v : Word) : Byte := v.extractLsb' 8 8

end Sys2Proof
end

