-- ==== Sys2Proof/Config.lean ====
section
/-! DEFINITION. The implementation parameters of spec/00_scope.md R5. The opcode table, also a parameter of R5,
is `Sys2Proof.opcodeTable` in Decode.lean. -/

namespace Sys2Proof.Config

/-- `MEM_BYTES` (R5, R40): addresses 0x0000 to 0xFFFF. -/
def memBytes : Nat := 65536

/-- `STACK_BASE` (R5, R14): base of the page that SP designates a byte of. -/
def stackBase : Word := 0x0100

/-- `SP_RESET` (R5, R14). -/
def spReset : Byte := 0xFD

/-- `RESET_VECTOR` (R5, R52): the address of the vector's low byte; its high byte is at 0xFFFD (C1). -/
def resetVector : Word := 0xFFFC

/-- `LOAD_BASE` (R5, R235). -/
def loadBase : Word := 0x8000

/-- `MAX_IMAGE` (R5, R236): the longest program image Load accepts. -/
def maxImage : Nat := 0x7FFC

/-- `READ16_TOP` (R5, R44): the one address at which a 16-bit access is not defined. -/
def read16Top : Word := 0xFFFF

/-- What a byte of memory that no cell of `State.mem` lists reads as. DESIGN CHOICE (log 1): `MEM_INIT` is open (R230, D9);
every memory content is still a value of `State.mem`, so a statement about every state is about every `MEM_INIT`. -/
def memInit : Byte := 0x00

/-- The value of Y in the one state `State.reset`. DESIGN CHOICE (log 2): `Y_POWERON` is open and Reset leaves Y alone
(R13, R230, R232, D8); no statement rests on it. -/
def yPowerOn : Byte := 0x00

end Sys2Proof.Config
end

