-- ==== Sys2Proof/Syntax.lean ====
section
/-! DEFINITION. The instructions as data: mnemonics, addressing modes, operand forms, table rows, and `Instr`,
one constructor per row of spec/opcode_table.json (spec/30_encoding.md R60 to R66; spec/41_addressing.md). -/

namespace Sys2Proof

/-- The ten mnemonics (R1, R66; the names are decision D3). -/
inductive Mnemonic where
  | lda | ldx | ldy | sta | stx | sty | tax | inx | adc | brk
  deriving DecidableEq, Repr

/-- The ten addressing modes, a closed set (R100, R101 to R111). -/
inductive Mode where
  | implicit | immediate | zeroPage | zeroPageX | zeroPageY
  | absolute | absoluteX | absoluteY | indirectX | indirectY
  deriving DecidableEq, Repr

/-- Operand bytes of a mode (R63). -/
def Mode.operandBytes : Mode → Nat
  | .implicit => 0
  | .immediate | .zeroPage | .zeroPageX | .zeroPageY | .indirectX | .indirectY => 1
  | .absolute | .absoluteX | .absoluteY => 2

/-- The three modes whose two operand bytes are one 16-bit read at PC (R105 to R107). -/
def Mode.isAbsolute : Mode → Bool
  | .absolute | .absoluteX | .absoluteY => true
  | .implicit | .immediate | .zeroPage | .zeroPageX | .zeroPageY | .indirectX | .indirectY => false

/-- Does the mnemonic's handler need an effective address (R96)? -/
def Mnemonic.needsAddress : Mnemonic → Bool
  | .lda | .ldx | .ldy | .sta | .stx | .sty | .adc => true
  | .tax | .inx | .brk => false

/-- Does the mnemonic's handler write the byte at the effective address (R150 to R152)? -/
def Mnemonic.isStore : Mnemonic → Bool
  | .sta | .stx | .sty => true
  | .lda | .ldx | .ldy | .tax | .inx | .adc | .brk => false

/-- `OpcodeDescriptor` (R64). `cycles` is carried and read by nothing (R75; PRESUMED values, log 11). -/
structure Descriptor where
  mnemonic : Mnemonic
  mode     : Mode
  length   : Nat
  cycles   : Nat
  deriving DecidableEq, Repr

/-- One row of the decode ROM: the opcode byte and its descriptor (R64, R72). -/
structure Row where
  opcode : Byte
  desc   : Descriptor
  deriving DecidableEq, Repr

/-- An operand as the instruction bytes give it (R62): `d8` is byte 1, `a16` is `hi : lo`, byte 2 then byte 1. -/
inductive Operand where
  | implicit
  | immediate (d8 : Byte)
  | zeroPage  (d8 : Byte)
  | zeroPageX (d8 : Byte)
  | zeroPageY (d8 : Byte)
  | absolute  (a16 : Word)
  | absoluteX (a16 : Word)
  | absoluteY (a16 : Word)
  | indirectX (d8 : Byte)
  | indirectY (d8 : Byte)
  deriving DecidableEq, Repr

def Operand.mode : Operand → Mode
  | .implicit    => .implicit
  | .immediate _ => .immediate
  | .zeroPage _  => .zeroPage
  | .zeroPageX _ => .zeroPageX
  | .zeroPageY _ => .zeroPageY
  | .absolute _  => .absolute
  | .absoluteX _ => .absoluteX
  | .absoluteY _ => .absoluteY
  | .indirectX _ => .indirectX
  | .indirectY _ => .indirectY

/-- The instructions: one constructor per row of spec/opcode_table.json, in the table's order (R66).
A name is the mnemonic and the mode; the operand is the row's `d8`, or `a16 = hi : lo`. -/
inductive Instr where
  | brk
  | adcIndX (d8 : Byte)
  | adcZp   (d8 : Byte)
  | adcImm  (d8 : Byte)
  | adcAbs  (a16 : Word)
  | adcIndY (d8 : Byte)
  | adcZpX  (d8 : Byte)
  | adcAbsY (a16 : Word)
  | adcAbsX (a16 : Word)
  | staIndX (d8 : Byte)
  | styZp   (d8 : Byte)
  | staZp   (d8 : Byte)
  | stxZp   (d8 : Byte)
  | styAbs  (a16 : Word)
  | staAbs  (a16 : Word)
  | stxAbs  (a16 : Word)
  | staIndY (d8 : Byte)
  | styZpX  (d8 : Byte)
  | staZpX  (d8 : Byte)
  | stxZpY  (d8 : Byte)
  | staAbsY (a16 : Word)
  | staAbsX (a16 : Word)
  | ldyImm  (d8 : Byte)
  | ldaIndX (d8 : Byte)
  | ldxImm  (d8 : Byte)
  | ldyZp   (d8 : Byte)
  | ldaZp   (d8 : Byte)
  | ldxZp   (d8 : Byte)
  | ldaImm  (d8 : Byte)
  | tax
  | ldyAbs  (a16 : Word)
  | ldaAbs  (a16 : Word)
  | ldxAbs  (a16 : Word)
  | ldaIndY (d8 : Byte)
  | ldyZpX  (d8 : Byte)
  | ldaZpX  (d8 : Byte)
  | ldxZpY  (d8 : Byte)
  | ldaAbsY (a16 : Word)
  | ldyAbsX (a16 : Word)
  | ldaAbsX (a16 : Word)
  | ldxAbsY (a16 : Word)
  | inx
  deriving DecidableEq, Repr

/-- The mnemonic of a form (R66). -/
def Instr.mnemonic : Instr → Mnemonic
  | .brk => .brk
  | .tax => .tax
  | .inx => .inx
  | .adcIndX _ | .adcZp _ | .adcImm _ | .adcAbs _ | .adcIndY _ | .adcZpX _ | .adcAbsY _ | .adcAbsX _ => .adc
  | .staIndX _ | .staZp _ | .staAbs _ | .staIndY _ | .staZpX _ | .staAbsY _ | .staAbsX _ => .sta
  | .stxZp _ | .stxAbs _ | .stxZpY _ => .stx
  | .styZp _ | .styAbs _ | .styZpX _ => .sty
  | .ldaIndX _ | .ldaZp _ | .ldaImm _ | .ldaAbs _ | .ldaIndY _ | .ldaZpX _ | .ldaAbsY _ | .ldaAbsX _ => .lda
  | .ldxImm _ | .ldxZp _ | .ldxAbs _ | .ldxZpY _ | .ldxAbsY _ => .ldx
  | .ldyImm _ | .ldyZp _ | .ldyAbs _ | .ldyZpX _ | .ldyAbsX _ => .ldy

/-- The operand of a form, with its addressing mode (R61, R62, R114). -/
def Instr.operand : Instr → Operand
  | .brk | .tax | .inx => .implicit
  | .adcImm d | .ldaImm d | .ldxImm d | .ldyImm d => .immediate d
  | .adcZp d | .staZp d | .stxZp d | .styZp d | .ldaZp d | .ldxZp d | .ldyZp d => .zeroPage d
  | .adcZpX d | .staZpX d | .styZpX d | .ldaZpX d | .ldyZpX d => .zeroPageX d
  | .stxZpY d | .ldxZpY d => .zeroPageY d
  | .adcAbs w | .staAbs w | .stxAbs w | .styAbs w | .ldaAbs w | .ldxAbs w | .ldyAbs w => .absolute w
  | .adcAbsX w | .staAbsX w | .ldaAbsX w | .ldyAbsX w => .absoluteX w
  | .adcAbsY w | .staAbsY w | .ldaAbsY w | .ldxAbsY w => .absoluteY w
  | .adcIndX d | .staIndX d | .ldaIndX d => .indirectX d
  | .adcIndY d | .staIndY d | .ldaIndY d => .indirectY d

def Instr.mode (i : Instr) : Mode := i.operand.mode

/-- Length in bytes: the opcode byte and the mode's operand bytes (R60, R63). -/
def Instr.length (i : Instr) : Nat := 1 + i.mode.operandBytes

end Sys2Proof
end

