-- ==== Sys2Proof/WellFormed.lean ====
section
/-! DEFINITION. What makes a table row, an instruction and a program image well formed.
Every value of an operand is legal (spec/30_encoding.md R70) and `Instr` holds operands at their exact widths, so the
checks that can fail are those of a row (R63, R202) and of an image (R236). -/

namespace Sys2Proof

/-- R63: `length = 1 + operand bytes of its mode`. -/
def Descriptor.lengthMatches (d : Descriptor) : Bool :=
  d.length == 1 + d.mode.operandBytes

/-- R202: a handler that needs an operand address is not paired with mode Implicit. -/
def Descriptor.modeServesHandler (d : Descriptor) : Bool :=
  !(d.mnemonic.needsAddress && d.mode == .implicit)

/-- A row the engine can run without `UnsupportedAddressingMode`, with the length of its mode. -/
def Descriptor.wf (d : Descriptor) : Bool :=
  d.lengthMatches && d.modeServesHandler

/-- An instruction is well formed if its mnemonic can run in its mode (R114, R202). -/
def Instr.wf (i : Instr) : Bool :=
  !(i.mnemonic.needsAddress && i.mode == .implicit)

/-- R236: `Load` requires `n <= 0x7FFC`. -/
def imageFits (image : List Byte) : Bool :=
  decide (image.length ≤ Config.maxImage)

end Sys2Proof
end

