-- ==== Sys2Proof/Decode.lean ====
section
/-! DEFINITION. The opcode table, the decoder and the encoder (spec/30_encoding.md R60 to R72; spec/opcode_table.json).
The three are separate transcriptions of R66; that they agree is stated in Certificates/Slice0/Obligations.lean. -/

namespace Sys2Proof

/-! ## `OPCODE_TABLE` (R64, R66): opcode byte, mnemonic, mode, length, cycles (read by nothing, R75) -/

def rowsLda : List Row :=
  [ ⟨0xA1, ⟨.lda, .indirectX, 2, 6⟩⟩
  , ⟨0xA5, ⟨.lda, .zeroPage, 2, 3⟩⟩
  , ⟨0xA9, ⟨.lda, .immediate, 2, 2⟩⟩
  , ⟨0xAD, ⟨.lda, .absolute, 3, 4⟩⟩
  , ⟨0xB1, ⟨.lda, .indirectY, 2, 5⟩⟩
  , ⟨0xB5, ⟨.lda, .zeroPageX, 2, 4⟩⟩
  , ⟨0xB9, ⟨.lda, .absoluteY, 3, 4⟩⟩
  , ⟨0xBD, ⟨.lda, .absoluteX, 3, 4⟩⟩ ]

def rowsLdx : List Row :=
  [ ⟨0xA2, ⟨.ldx, .immediate, 2, 2⟩⟩
  , ⟨0xA6, ⟨.ldx, .zeroPage, 2, 3⟩⟩
  , ⟨0xAE, ⟨.ldx, .absolute, 3, 4⟩⟩
  , ⟨0xB6, ⟨.ldx, .zeroPageY, 2, 4⟩⟩
  , ⟨0xBE, ⟨.ldx, .absoluteY, 3, 4⟩⟩ ]

def rowsLdy : List Row :=
  [ ⟨0xA0, ⟨.ldy, .immediate, 2, 2⟩⟩
  , ⟨0xA4, ⟨.ldy, .zeroPage, 2, 3⟩⟩
  , ⟨0xAC, ⟨.ldy, .absolute, 3, 4⟩⟩
  , ⟨0xB4, ⟨.ldy, .zeroPageX, 2, 4⟩⟩
  , ⟨0xBC, ⟨.ldy, .absoluteX, 3, 4⟩⟩ ]

def rowsSta : List Row :=
  [ ⟨0x81, ⟨.sta, .indirectX, 2, 6⟩⟩
  , ⟨0x85, ⟨.sta, .zeroPage, 2, 3⟩⟩
  , ⟨0x8D, ⟨.sta, .absolute, 3, 4⟩⟩
  , ⟨0x91, ⟨.sta, .indirectY, 2, 6⟩⟩
  , ⟨0x95, ⟨.sta, .zeroPageX, 2, 4⟩⟩
  , ⟨0x99, ⟨.sta, .absoluteY, 3, 5⟩⟩
  , ⟨0x9D, ⟨.sta, .absoluteX, 3, 5⟩⟩ ]

def rowsStx : List Row :=
  [ ⟨0x86, ⟨.stx, .zeroPage, 2, 3⟩⟩
  , ⟨0x8E, ⟨.stx, .absolute, 3, 4⟩⟩
  , ⟨0x96, ⟨.stx, .zeroPageY, 2, 4⟩⟩ ]

def rowsSty : List Row :=
  [ ⟨0x84, ⟨.sty, .zeroPage, 2, 3⟩⟩
  , ⟨0x8C, ⟨.sty, .absolute, 3, 4⟩⟩
  , ⟨0x94, ⟨.sty, .zeroPageX, 2, 4⟩⟩ ]

def rowsAdc : List Row :=
  [ ⟨0x61, ⟨.adc, .indirectX, 2, 6⟩⟩
  , ⟨0x65, ⟨.adc, .zeroPage, 2, 3⟩⟩
  , ⟨0x69, ⟨.adc, .immediate, 2, 2⟩⟩
  , ⟨0x6D, ⟨.adc, .absolute, 3, 4⟩⟩
  , ⟨0x71, ⟨.adc, .indirectY, 2, 5⟩⟩
  , ⟨0x75, ⟨.adc, .zeroPageX, 2, 4⟩⟩
  , ⟨0x79, ⟨.adc, .absoluteY, 3, 4⟩⟩
  , ⟨0x7D, ⟨.adc, .absoluteX, 3, 4⟩⟩ ]

def rowsImplicit : List Row :=
  [ ⟨0x00, ⟨.brk, .implicit, 1, 7⟩⟩
  , ⟨0xAA, ⟨.tax, .implicit, 1, 2⟩⟩
  , ⟨0xE8, ⟨.inx, .implicit, 1, 2⟩⟩ ]

/-- The 42 rows of R66. -/
def opcodeTable : List Row :=
  rowsImplicit ++ rowsLda ++ rowsLdx ++ rowsLdy ++ rowsSta ++ rowsStx ++ rowsSty ++ rowsAdc

/-- `OpcodeTable[b]` in a table given as rows: the lookup uses all eight bits of `b` (R64). -/
def lookupRow : List Row → Byte → Option Descriptor
  | [], _ => none
  | r :: rest, b => if r.opcode = b then some r.desc else lookupRow rest b

/-- `OpcodeTable[b]` of the block (R64); `none` for the 214 illegal bytes (R69). -/
def opcodeLookup (b : Byte) : Option Descriptor := lookupRow opcodeTable b

/-! ## The decoder -/

/-- The instruction that an opcode byte and the two bytes after it stand for (R61, R62, R66); an operand byte that the
form does not have is ignored. `none` exactly for an opcode byte with no row (R69). -/
def decodeWindow (op b1 b2 : Byte) : Option Instr :=
  match op with
  | 0x00#8 => some .brk
  | 0x61#8 => some (.adcIndX b1)
  | 0x65#8 => some (.adcZp b1)
  | 0x69#8 => some (.adcImm b1)
  | 0x6D#8 => some (.adcAbs (hiLo b2 b1))
  | 0x71#8 => some (.adcIndY b1)
  | 0x75#8 => some (.adcZpX b1)
  | 0x79#8 => some (.adcAbsY (hiLo b2 b1))
  | 0x7D#8 => some (.adcAbsX (hiLo b2 b1))
  | 0x81#8 => some (.staIndX b1)
  | 0x84#8 => some (.styZp b1)
  | 0x85#8 => some (.staZp b1)
  | 0x86#8 => some (.stxZp b1)
  | 0x8C#8 => some (.styAbs (hiLo b2 b1))
  | 0x8D#8 => some (.staAbs (hiLo b2 b1))
  | 0x8E#8 => some (.stxAbs (hiLo b2 b1))
  | 0x91#8 => some (.staIndY b1)
  | 0x94#8 => some (.styZpX b1)
  | 0x95#8 => some (.staZpX b1)
  | 0x96#8 => some (.stxZpY b1)
  | 0x99#8 => some (.staAbsY (hiLo b2 b1))
  | 0x9D#8 => some (.staAbsX (hiLo b2 b1))
  | 0xA0#8 => some (.ldyImm b1)
  | 0xA1#8 => some (.ldaIndX b1)
  | 0xA2#8 => some (.ldxImm b1)
  | 0xA4#8 => some (.ldyZp b1)
  | 0xA5#8 => some (.ldaZp b1)
  | 0xA6#8 => some (.ldxZp b1)
  | 0xA9#8 => some (.ldaImm b1)
  | 0xAA#8 => some .tax
  | 0xAC#8 => some (.ldyAbs (hiLo b2 b1))
  | 0xAD#8 => some (.ldaAbs (hiLo b2 b1))
  | 0xAE#8 => some (.ldxAbs (hiLo b2 b1))
  | 0xB1#8 => some (.ldaIndY b1)
  | 0xB4#8 => some (.ldyZpX b1)
  | 0xB5#8 => some (.ldaZpX b1)
  | 0xB6#8 => some (.ldxZpY b1)
  | 0xB9#8 => some (.ldaAbsY (hiLo b2 b1))
  | 0xBC#8 => some (.ldyAbsX (hiLo b2 b1))
  | 0xBD#8 => some (.ldaAbsX (hiLo b2 b1))
  | 0xBE#8 => some (.ldxAbsY (hiLo b2 b1))
  | 0xE8#8 => some .inx
  | _ => none

/-- What decoding a byte list answers: an instruction and the bytes after it, or a rejection by name. -/
inductive Decoded where
  | ok (i : Instr) (rest : List Byte)
  /-- The byte has no table row (R69, R201). -/
  | unknownOpcode (op : Byte)
  /-- The list ends before the form's operand bytes do (R60); memory never does. -/
  | truncated (bytes : List Byte)
  deriving DecidableEq, Repr

/-- Decode the instruction at the head of a byte list, lowest address first (R60, R71). Total. -/
def decode : List Byte → Decoded
  | [] => .truncated []
  | op :: rest =>
    match decodeWindow op (rest.getD 0 0) (rest.getD 1 0) with
    | none => .unknownOpcode op
    | some i =>
      if i.mode.operandBytes ≤ rest.length then .ok i (rest.drop i.mode.operandBytes)
      else .truncated (op :: rest)

/-! ## The encoder -/

/-- The bytes of an instruction, opcode first, `lo` before `hi` (R60, R61, R66). -/
def encode : Instr → List Byte
  | .brk => [0x00]
  | .adcIndX d => [0x61, d]
  | .adcZp d => [0x65, d]
  | .adcImm d => [0x69, d]
  | .adcAbs w => [0x6D, loByte w, hiByte w]
  | .adcIndY d => [0x71, d]
  | .adcZpX d => [0x75, d]
  | .adcAbsY w => [0x79, loByte w, hiByte w]
  | .adcAbsX w => [0x7D, loByte w, hiByte w]
  | .staIndX d => [0x81, d]
  | .styZp d => [0x84, d]
  | .staZp d => [0x85, d]
  | .stxZp d => [0x86, d]
  | .styAbs w => [0x8C, loByte w, hiByte w]
  | .staAbs w => [0x8D, loByte w, hiByte w]
  | .stxAbs w => [0x8E, loByte w, hiByte w]
  | .staIndY d => [0x91, d]
  | .styZpX d => [0x94, d]
  | .staZpX d => [0x95, d]
  | .stxZpY d => [0x96, d]
  | .staAbsY w => [0x99, loByte w, hiByte w]
  | .staAbsX w => [0x9D, loByte w, hiByte w]
  | .ldyImm d => [0xA0, d]
  | .ldaIndX d => [0xA1, d]
  | .ldxImm d => [0xA2, d]
  | .ldyZp d => [0xA4, d]
  | .ldaZp d => [0xA5, d]
  | .ldxZp d => [0xA6, d]
  | .ldaImm d => [0xA9, d]
  | .tax => [0xAA]
  | .ldyAbs w => [0xAC, loByte w, hiByte w]
  | .ldaAbs w => [0xAD, loByte w, hiByte w]
  | .ldxAbs w => [0xAE, loByte w, hiByte w]
  | .ldaIndY d => [0xB1, d]
  | .ldyZpX d => [0xB4, d]
  | .ldaZpX d => [0xB5, d]
  | .ldxZpY d => [0xB6, d]
  | .ldaAbsY w => [0xB9, loByte w, hiByte w]
  | .ldyAbsX w => [0xBC, loByte w, hiByte w]
  | .ldaAbsX w => [0xBD, loByte w, hiByte w]
  | .ldxAbsY w => [0xBE, loByte w, hiByte w]
  | .inx => [0xE8]

/-- The opcode byte of an instruction: byte 0 of its encoding. -/
def Instr.opcode (i : Instr) : Byte := (encode i).headD 0

/-! ## The host's numbering of an instruction's bits: byte `k` is bits `8k+7 .. 8k` -/

/-- Byte `k` of the instruction whose `nbits` bits are `w`; every bit above `nbits` is 0. -/
def tableByte (nbits w k : Nat) : Byte := BitVec.ofNat 8 ((w % 2 ^ nbits) / 256 ^ k)

/-- The instruction the decoder reads from an instruction whose bits are `w` as spec/opcode_table.json numbers them. -/
def decodeTableWord (nbits w : Nat) : Option Instr :=
  decodeWindow (tableByte nbits w 0) (tableByte nbits w 1) (tableByte nbits w 2)

end Sys2Proof
end

