-- ==== Sys2Proof/Machine/Memory.lean ====
section
/-! DEFINITION. The address space (spec/20_memory.md R40 to R45): 65,536 bytes, held as the cells that differ from what an
unlisted address reads as (`Config.memInit`, log 1), in one canonical form (`Memory.wf`). -/

namespace Sys2Proof.Machine

/-- The contents of `M`: cells (address, byte), addresses rising. -/
abbrev Memory := List Host.Cell

/-- The byte at a cell key; `Config.memInit` where no cell lists it. -/
def Memory.lookup : Memory → Nat → Byte
  | [], _ => Config.memInit
  | (k, v) :: rest, a => if k = a then v else Memory.lookup rest a

/-- Put byte `v` at key `a`, keeping the canonical form: the value an unlisted address reads as removes the cell. -/
def Memory.insert : Memory → Nat → Byte → Memory
  | [], a, v => if v = Config.memInit then [] else [(a, v)]
  | (k, w) :: rest, a, v =>
    if a < k then (if v = Config.memInit then (k, w) :: rest else (a, v) :: (k, w) :: rest)
    else if a = k then (if v = Config.memInit then rest else (a, v) :: rest)
    else (k, w) :: Memory.insert rest a v

/-- Canonical from key `low` on: keys rise strictly and stay inside the space, no cell repeats what it would read as unlisted. -/
def Memory.wfFrom : Nat → Memory → Bool
  | _, [] => true
  | low, (k, v) :: rest =>
    decide (low ≤ k) && decide (k < Config.memBytes) && decide (v ≠ Config.memInit) && Memory.wfFrom (k + 1) rest

/-- The canonical form of memory. -/
def Memory.wf (m : Memory) : Bool := Memory.wfFrom 0 m

/-- `MemRead(a, 1)` (R42): total, no side effect. -/
def Memory.read (m : Memory) (a : Word) : Byte := m.lookup a.toNat

/-- `MemWrite(a, 1, v)` (R43): total. -/
def Memory.write (m : Memory) (a : Word) (v : Byte) : Memory := m.insert a.toNat v

/-- `MemRead(a, 2)` (R44): little-endian; `none` at 0xFFFF, where the read is not defined (D6). -/
def Memory.read16 (m : Memory) (a : Word) : Option Word :=
  if a = Config.read16Top then none else some (hiLo (m.read (a + 1)) (m.read a))

/-- `MemWrite(a, 2, v)` (R45): low byte first; `none` at 0xFFFF, where the write is not defined (U1). -/
def Memory.write16 (m : Memory) (a : Word) (v : Word) : Option Memory :=
  if a = Config.read16Top then none else some ((m.write a (loByte v)).write (a + 1) (hiByte v))

/-- `ZpRead16(p)` (R108): both bytes from page zero, the high byte at `p +8 1`; never aborts. -/
def Memory.zpRead16 (m : Memory) (p : Byte) : Word :=
  hiLo (m.read (zext16 (p + 1))) (m.read (zext16 p))

/-- Bytes written at `a`, `a +16 1`, ... (used by Load, R235, and by `withFetchWord`). -/
def Memory.writeBytes (m : Memory) (a : Word) : List Byte → Memory
  | [] => m
  | b :: rest => Memory.writeBytes (m.write a b) (a + 1) rest

end Sys2Proof.Machine
end

