-- ==== Sys2Proof/Machine/State.lean ====
section
/-! DEFINITION. The state of the block (spec/10_state.md, spec/20_memory.md R40), the reasons a transaction can stop, the
power-on state and the state right after Reset (spec/70_reset_and_hazards.md R230, R231). -/

namespace Sys2Proof.Machine

/-- `P`, the flag register: eight independent flags (R16). Their places in the raw byte (decision D2) are `Flags.toByte`'s alone. -/
structure Flags where
  /-- Carry (R17). -/
  c : Bool
  /-- Zero (R18). -/
  z : Bool
  /-- Interrupt-Disable (R19). -/
  i : Bool
  /-- Decimal (R20). -/
  d : Bool
  /-- Break (R21). -/
  b : Bool
  /-- Break2, the reserved bit, real storage (R22). -/
  u : Bool
  /-- Overflow (R23). -/
  v : Bool
  /-- Negative (R24). -/
  n : Bool
  deriving DecidableEq, Repr

/-- `P_RESET` (R5, R231): Interrupt-Disable and Break2 set, the six others clear. -/
def Flags.reset : Flags := ⟨false, false, true, false, false, true, false, false⟩

/-- `RUN` (R30). -/
inductive RunStatus where
  | running | halted | aborted
  deriving DecidableEq, Repr

/-- The three abort kinds (R200). -/
inductive AbortKind where
  /-- The fetched byte has no table row (R201). -/
  | unknownOpcode
  /-- An operand address was required in mode Implicit (R202); the block's table never causes it. -/
  | unsupportedAddressingMode
  /-- A 16-bit operand read at 0xFFFF (R205). -/
  | read16Window
  deriving DecidableEq, Repr

/-- The numeric codes of R200 (decision D7). -/
def AbortKind.code : AbortKind → Nat
  | .unknownOpcode => 1
  | .unsupportedAddressingMode => 2
  | .read16Window => 3

/-- `ABORT` (R33): the kind, the offending opcode byte and the address it was fetched from. -/
structure AbortRecord where
  kind   : AbortKind
  opcode : Byte
  opaddr : Word
  deriving DecidableEq, Repr

/-- Everything the spec gives the machine (R10, R15, R16, R30, R33, R40). -/
structure State where
  /-- Accumulator (R11). -/
  a : Byte
  /-- Index register X (R12). -/
  x : Byte
  /-- Index register Y (R13). -/
  y : Byte
  /-- Stack pointer (R14). -/
  sp : Byte
  /-- Program counter (R15). -/
  pc : Word
  /-- Flag register (R16). -/
  p : Flags
  /-- Run status (R30). -/
  run : RunStatus
  /-- Abort record; `none` is the spec's `empty` (R33, R230). -/
  abort : Option AbortRecord
  /-- The address space (R40). -/
  mem : Memory
  deriving DecidableEq, Repr

/-- How a run's end is reported as a failure. No step and no meaning of an instruction answers a fault: an abort is a NEXT
state with RUN = Aborted, as R204 and R206 describe it (log 5). -/
inductive Fault where
  /-- Raised by `runReport` (Safety.lean) alone, for a run that ended Aborted (R32, R97); it carries ABORT. Safe: it only
  says that the run did not complete. -/
  | aborted (record : Option AbortRecord)
  deriving DecidableEq, Repr

/-- What the machine refuses. No step and no meaning of an instruction answers a refusal. -/
inductive Refusal where
  /-- An instruction without a meaning; no arm of `exec` uses it. Safe: the run stops. -/
  | notModelled (mnemonic : String)
  /-- Raised by `load` for an image longer than 0x7FFC bytes, nothing written (R236, U13). Safe: nothing is claimed of it. -/
  | imageTooLong
  /-- Raised by the 16-bit write at 0xFFFF, which is not definable (R45, U1); no transaction reaches it. Safe. -/
  | write16Window
  deriving DecidableEq, Repr

/-- What a step, an instruction or a transaction answers. -/
abbrev Result := Host.Outcome State Fault Refusal

/-- The power-on state (R230): SP and P have their values, RUN is Halted, ABORT is empty; the values the spec leaves open
(`A_POWERON`, `X_POWERON`, `Y_POWERON`, `PC_POWERON`, `MEM_INIT`) are arguments. -/
def State.powerOn (a x y : Byte) (pc : Word) (mem : Memory) : State where
  a := a
  x := x
  y := y
  sp := Config.spReset
  pc := pc
  p := Flags.reset
  run := .halted
  abort := none
  mem := mem

/-- The state right after the Reset transaction (R36, R231, R234) on a power-on state whose open values are those of logs 1
and 2: A and X zeroed, Y as it was, SP and P at their reset values, PC from the vector, Running, ABORT empty, memory as it was. -/
def State.reset : State where
  a := 0x00
  x := 0x00
  y := Config.yPowerOn
  sp := Config.spReset
  pc := hiLo (Memory.read [] (Config.resetVector + 1)) (Memory.read [] Config.resetVector)
  p := Flags.reset
  run := .running
  abort := none
  mem := []

end Sys2Proof.Machine
end

