-- ==== Sys2Proof/Machine/Ops.lean ====
section
/-! DEFINITION. The named operations over registers and memory, the two ends of a run (abort and halt) and the way out of
them, Reset (spec/20_memory.md R42 to R50; spec/40_step_engine.md R80 to R88; spec/60_exceptions.md R204; spec/70_reset_and_hazards.md R231). -/

namespace Sys2Proof.Machine

/-! ## Registers and memory -/

def State.setA (s : State) (v : Byte) : State := { s with a := v }
def State.setX (s : State) (v : Byte) : State := { s with x := v }
def State.setY (s : State) (v : Byte) : State := { s with y := v }
def State.setPc (s : State) (t : Word) : State := { s with pc := t }
def State.setP (s : State) (f : Flags) : State := { s with p := f }
def State.setMem (s : State) (m : Memory) : State := { s with mem := m }

/-- `MemRead(a, 1)` (R42). -/
def State.memRead (s : State) (a : Word) : Byte := s.mem.read a

/-- `MemWrite(a, 1, v)` (R43). -/
def State.memWrite (s : State) (a : Word) (v : Byte) : State := s.setMem (s.mem.write a v)

/-- The stack location SP designates (R14); no instruction accesses memory through it. -/
def State.stackAddress (s : State) : Word := Config.stackBase + zext16 s.sp

/-! ## Fetch and the PC adder -/

/-- The unconditional pre-advance right after the opcode fetch (R82). -/
def State.preAdvance (s : State) : State := s.setPc (s.pc + 1)

/-- "Auto-advance unless redirected" (R86): `length - 1` more, if the handler left PC at `pc_before`. -/
def State.autoAdvance (s : State) (pcBefore : Word) (length : Nat) : State :=
  if s.pc = pcBefore then s.setPc (s.pc + BitVec.ofNat 16 (length - 1)) else s

/-- Fetch and decode at PC (R81, R83): the opcode byte and the bytes that follow it, modulo 2^16 (R60). `none` for a byte
with no row. The reads are of plain memory and cannot be seen (R41; logs 9, 10). -/
def State.fetchInstr (s : State) : Option Instr :=
  decodeWindow (s.memRead s.pc) (s.memRead (s.pc + 1)) (s.memRead (s.pc + 2))

/-! ## The ends of a run -/

/-- `raise K(op, opaddr)` (R204): write ABORT, set RUN to Aborted; nothing else. -/
def State.raise (s : State) (kind : AbortKind) (op : Byte) (opaddr : Word) : State :=
  { s with run := .aborted, abort := some ⟨kind, op, opaddr⟩ }

/-- `halt` (R195): set RUN to Halted; nothing else. -/
def State.halt (s : State) : State := { s with run := .halted }

/-- A fetched byte without a row (R83, R201): after the pre-advance, raise `UnknownOpcode(op, opaddr)`. -/
def State.unknownOpcode (s : State) : State :=
  s.preAdvance.raise .unknownOpcode (s.memRead s.pc) s.pc

/-- The `Reset` transaction (R231 to R233), the only way out of Halted and Aborted (R211): Y and memory are not written; PC is
the vector's two bytes at this moment. -/
def State.resetTransaction (s : State) : State :=
  { s with
    a := 0x00
    x := 0x00
    sp := Config.spReset
    p := Flags.reset
    pc := hiLo (s.memRead (Config.resetVector + 1)) (s.memRead Config.resetVector)
    run := .running
    abort := none }

end Sys2Proof.Machine
end

