-- ==== Sys2Proof/Machine/Flags.lean ====
section
/-! DEFINITION. The one flag computation, `SetZN` (spec/10_state.md R25), and the raw-byte view of P (R28, decision D2). -/

namespace Sys2Proof.Machine

/-- The flags after `SetZN(v)` (R25): Zero iff `v` is 0x00, Negative is bit 7 of `v`; the six others as they were. -/
def Flags.setZN (f : Flags) (v : Byte) : Flags := { f with z := decide (v = 0x00), n := v.getLsbD 7 }

/-- `SetZN(v)` on the state (R25). -/
def State.setZN (s : State) (v : Byte) : State := s.setP (s.p.setZN v)

/-- A flag at its mask of R16. -/
def flagMask (set : Bool) (mask : Byte) : Byte := if set then mask else 0x00

/-- The raw-byte view of P (R28): N V U B D I Z C from bit 7 down (R16; D2, log 7). -/
def Flags.toByte (f : Flags) : Byte :=
  flagMask f.n 0x80 ||| flagMask f.v 0x40 ||| flagMask f.u 0x20 ||| flagMask f.b 0x10 |||
    flagMask f.d 0x08 ||| flagMask f.i 0x04 ||| flagMask f.z 0x02 ||| flagMask f.c 0x01

/-- The flags whose raw byte is `v` (R16). -/
def Flags.ofByte (v : Byte) : Flags where
  c := v.getLsbD 0
  z := v.getLsbD 1
  i := v.getLsbD 2
  d := v.getLsbD 3
  b := v.getLsbD 4
  u := v.getLsbD 5
  v := v.getLsbD 6
  n := v.getLsbD 7

end Sys2Proof.Machine
end

