-- ==== Sys2Proof/Machine/Operands.lean ====
section
/-! DEFINITION. The addressing-mode resolver (spec/41_addressing.md R100 to R113) and the part of the step that every form
shares (spec/40_step_engine.md R80): pre-advance, resolve, handler, auto-advance. -/

namespace Sys2Proof.Machine

/-- `MemRead(PC, 2)` of the absolute modes (R105): the operand, unless PC is 0xFFFF, where the read aborts (R44, R205). -/
def State.operand16 (s : State) (a16 : Word) : Except AbortKind Word :=
  if s.pc = Config.read16Top then .error .read16Window else .ok a16

/-- `Resolve(mode)` (R100), called with PC at operand byte 1: the effective address, or the abort. It writes nothing. -/
def State.resolve (s : State) : Operand → Except AbortKind Word
  | .implicit     => .error .unsupportedAddressingMode                    -- R111
  | .immediate _  => .ok s.pc                                             -- R101
  | .zeroPage d8  => .ok (zext16 d8)                                      -- R102
  | .zeroPageX d8 => .ok (zext16 (d8 + s.x))                              -- R103
  | .zeroPageY d8 => .ok (zext16 (d8 + s.y))                              -- R104
  | .absolute w   => s.operand16 w                                        -- R105
  | .absoluteX w  => (s.operand16 w).map (fun base => base + zext16 s.x)  -- R106
  | .absoluteY w  => (s.operand16 w).map (fun base => base + zext16 s.y)  -- R107
  | .indirectX d8 => .ok (s.mem.zpRead16 (d8 + s.x))                      -- R109
  | .indirectY d8 => .ok (s.mem.zpRead16 d8 + zext16 s.y)                 -- R110

/-- The byte a handler reads at its effective address, `MemRead(ea, 1)`; in mode Immediate `d8` is the data itself (R62), the
byte that fetch read at `ea` (R101; log 9). -/
def State.dataByte (s : State) (o : Operand) (ea : Word) : Byte :=
  match o with
  | .immediate d8 => d8
  | .implicit | .zeroPage _ | .zeroPageX _ | .zeroPageY _ | .absolute _ | .absoluteX _ | .absoluteY _ | .indirectX _
  | .indirectY _ => s.memRead ea

/-- The operand byte of a handler that reads one: resolve, then read (R80, R120). -/
def State.operandByte (s : State) (o : Operand) : Except AbortKind Byte := (s.resolve o).map (s.dataByte o)

/-- The whole step of a form whose handler reads an operand byte (R80). -/
def readForm (op : Byte) (o : Operand) (handler : Byte → State → State) (s : State) : Result :=
  let s1 := s.preAdvance
  match s1.operandByte o with
  | .error kind => .next (s1.raise kind op s.pc)
  | .ok m => .next ((handler m s1).autoAdvance s1.pc (1 + o.mode.operandBytes))

/-- The whole step of a form whose handler is given the effective address (R80). -/
def addressForm (op : Byte) (o : Operand) (handler : Word → State → State) (s : State) : Result :=
  let s1 := s.preAdvance
  match s1.resolve o with
  | .error kind => .next (s1.raise kind op s.pc)
  | .ok ea => .next ((handler ea s1).autoAdvance s1.pc (1 + o.mode.operandBytes))

/-- The whole step of a form without an operand (R80, R85): the resolver is not called. -/
def implicitForm (handler : State → State) (s : State) : Result :=
  let s1 := s.preAdvance
  .next ((handler s1).autoAdvance s1.pc 1)

end Sys2Proof.Machine
end

