-- ==== Sys2Proof/Machine/Add.lean ====
section
/-! DEFINITION. The add family: ADC, which adds without carry (spec/45_adc.md R180 to R189; decision D13). -/

namespace Sys2Proof.Machine

/-- The ADC handler (R180): `A <- A +8 m`; P.C is not added and not written, P.V is not written, P.D is not read. -/
def adc (m : Byte) (s : State) : State := (s.setA (s.a + m)).setZN (s.a + m)

/-- `ADC #$nn`, opcode 0x69 (R181). -/
def execAdcImm (d8 : Byte) (s : State) : Result := readForm 0x69 (.immediate d8) adc s

/-- `ADC $nn`, opcode 0x65 (R182). -/
def execAdcZp (d8 : Byte) (s : State) : Result := readForm 0x65 (.zeroPage d8) adc s

/-- `ADC $nn,X`, opcode 0x75 (R183). -/
def execAdcZpX (d8 : Byte) (s : State) : Result := readForm 0x75 (.zeroPageX d8) adc s

/-- `ADC $nnnn`, opcode 0x6D (R184). -/
def execAdcAbs (a16 : Word) (s : State) : Result := readForm 0x6D (.absolute a16) adc s

/-- `ADC $nnnn,X`, opcode 0x7D (R185). -/
def execAdcAbsX (a16 : Word) (s : State) : Result := readForm 0x7D (.absoluteX a16) adc s

/-- `ADC $nnnn,Y`, opcode 0x79 (R186). -/
def execAdcAbsY (a16 : Word) (s : State) : Result := readForm 0x79 (.absoluteY a16) adc s

/-- `ADC ($nn,X)`, opcode 0x61 (R187). -/
def execAdcIndX (d8 : Byte) (s : State) : Result := readForm 0x61 (.indirectX d8) adc s

/-- `ADC ($nn),Y`, opcode 0x71 (R188). -/
def execAdcIndY (d8 : Byte) (s : State) : Result := readForm 0x71 (.indirectY d8) adc s

end Sys2Proof.Machine
end

