-- ==== Sys2Proof/Machine/Break.lean ====
section
/-! DEFINITION. The software break: BRK, which halts (spec/46_brk.md R195, R196; decision D12). -/

namespace Sys2Proof.Machine


/-- `BRK`, opcode 0x00 (R195): the pre-advance of the fetch, then the halt; nothing else is written or read. -/
def execBrk (s : State) : Result := .next s.preAdvance.halt

end Sys2Proof.Machine
end

