-- ==== Sys2Proof/Machine/Load.lean ====
section
/-! DEFINITION. The load family: LDA, LDX, LDY (spec/42_load.md R120 to R141). -/

namespace Sys2Proof.Machine

/-- The LDA handler (R120), given the operand byte. -/
def lda (m : Byte) (s : State) : State := (s.setA m).setZN m

/-- The LDX handler (R121). -/
def ldx (m : Byte) (s : State) : State := (s.setX m).setZN m

/-- The LDY handler (R122). -/
def ldy (m : Byte) (s : State) : State := (s.setY m).setZN m

/-- `LDA #$nn`, opcode 0xA9 (R123). -/
def execLdaImm (d8 : Byte) (s : State) : Result := readForm 0xA9 (.immediate d8) lda s

/-- `LDA $nn`, opcode 0xA5 (R124). -/
def execLdaZp (d8 : Byte) (s : State) : Result := readForm 0xA5 (.zeroPage d8) lda s

/-- `LDA $nn,X`, opcode 0xB5 (R125). -/
def execLdaZpX (d8 : Byte) (s : State) : Result := readForm 0xB5 (.zeroPageX d8) lda s

/-- `LDA $nnnn`, opcode 0xAD (R126). -/
def execLdaAbs (a16 : Word) (s : State) : Result := readForm 0xAD (.absolute a16) lda s

/-- `LDA $nnnn,X`, opcode 0xBD (R127). -/
def execLdaAbsX (a16 : Word) (s : State) : Result := readForm 0xBD (.absoluteX a16) lda s

/-- `LDA $nnnn,Y`, opcode 0xB9 (R128). -/
def execLdaAbsY (a16 : Word) (s : State) : Result := readForm 0xB9 (.absoluteY a16) lda s

/-- `LDA ($nn,X)`, opcode 0xA1 (R129). -/
def execLdaIndX (d8 : Byte) (s : State) : Result := readForm 0xA1 (.indirectX d8) lda s

/-- `LDA ($nn),Y`, opcode 0xB1 (R130). -/
def execLdaIndY (d8 : Byte) (s : State) : Result := readForm 0xB1 (.indirectY d8) lda s

/-- `LDX #$nn`, opcode 0xA2 (R131). -/
def execLdxImm (d8 : Byte) (s : State) : Result := readForm 0xA2 (.immediate d8) ldx s

/-- `LDX $nn`, opcode 0xA6 (R132). -/
def execLdxZp (d8 : Byte) (s : State) : Result := readForm 0xA6 (.zeroPage d8) ldx s

/-- `LDX $nn,Y`, opcode 0xB6 (R133). -/
def execLdxZpY (d8 : Byte) (s : State) : Result := readForm 0xB6 (.zeroPageY d8) ldx s

/-- `LDX $nnnn`, opcode 0xAE (R134). -/
def execLdxAbs (a16 : Word) (s : State) : Result := readForm 0xAE (.absolute a16) ldx s

/-- `LDX $nnnn,Y`, opcode 0xBE (R135). -/
def execLdxAbsY (a16 : Word) (s : State) : Result := readForm 0xBE (.absoluteY a16) ldx s

/-- `LDY #$nn`, opcode 0xA0 (R136). -/
def execLdyImm (d8 : Byte) (s : State) : Result := readForm 0xA0 (.immediate d8) ldy s

/-- `LDY $nn`, opcode 0xA4 (R137). -/
def execLdyZp (d8 : Byte) (s : State) : Result := readForm 0xA4 (.zeroPage d8) ldy s

/-- `LDY $nn,X`, opcode 0xB4 (R138). -/
def execLdyZpX (d8 : Byte) (s : State) : Result := readForm 0xB4 (.zeroPageX d8) ldy s

/-- `LDY $nnnn`, opcode 0xAC (R139). -/
def execLdyAbs (a16 : Word) (s : State) : Result := readForm 0xAC (.absolute a16) ldy s

/-- `LDY $nnnn,X`, opcode 0xBC (R140). -/
def execLdyAbsX (a16 : Word) (s : State) : Result := readForm 0xBC (.absoluteX a16) ldy s

end Sys2Proof.Machine
end

