-- ==== Sys2Proof/Machine/Store.lean ====
section
/-! DEFINITION. The store family: STA, STX, STY (spec/43_store.md R150 to R166). -/

namespace Sys2Proof.Machine

/-- The STA handler (R150): `M[ea] <- A`, no flag effect. -/
def sta (ea : Word) (s : State) : State := s.memWrite ea s.a

/-- The STX handler (R151). -/
def stx (ea : Word) (s : State) : State := s.memWrite ea s.x

/-- The STY handler (R152). -/
def sty (ea : Word) (s : State) : State := s.memWrite ea s.y

/-- `STA $nn`, opcode 0x85 (R153). -/
def execStaZp (d8 : Byte) (s : State) : Result := addressForm 0x85 (.zeroPage d8) sta s

/-- `STA $nn,X`, opcode 0x95 (R154). -/
def execStaZpX (d8 : Byte) (s : State) : Result := addressForm 0x95 (.zeroPageX d8) sta s

/-- `STA $nnnn`, opcode 0x8D (R155). -/
def execStaAbs (a16 : Word) (s : State) : Result := addressForm 0x8D (.absolute a16) sta s

/-- `STA $nnnn,X`, opcode 0x9D (R156). -/
def execStaAbsX (a16 : Word) (s : State) : Result := addressForm 0x9D (.absoluteX a16) sta s

/-- `STA $nnnn,Y`, opcode 0x99 (R157). -/
def execStaAbsY (a16 : Word) (s : State) : Result := addressForm 0x99 (.absoluteY a16) sta s

/-- `STA ($nn,X)`, opcode 0x81 (R158). -/
def execStaIndX (d8 : Byte) (s : State) : Result := addressForm 0x81 (.indirectX d8) sta s

/-- `STA ($nn),Y`, opcode 0x91 (R159). -/
def execStaIndY (d8 : Byte) (s : State) : Result := addressForm 0x91 (.indirectY d8) sta s

/-- `STX $nn`, opcode 0x86 (R160). -/
def execStxZp (d8 : Byte) (s : State) : Result := addressForm 0x86 (.zeroPage d8) stx s

/-- `STX $nn,Y`, opcode 0x96 (R161). -/
def execStxZpY (d8 : Byte) (s : State) : Result := addressForm 0x96 (.zeroPageY d8) stx s

/-- `STX $nnnn`, opcode 0x8E (R162). -/
def execStxAbs (a16 : Word) (s : State) : Result := addressForm 0x8E (.absolute a16) stx s

/-- `STY $nn`, opcode 0x84 (R163). -/
def execStyZp (d8 : Byte) (s : State) : Result := addressForm 0x84 (.zeroPage d8) sty s

/-- `STY $nn,X`, opcode 0x94 (R164). -/
def execStyZpX (d8 : Byte) (s : State) : Result := addressForm 0x94 (.zeroPageX d8) sty s

/-- `STY $nnnn`, opcode 0x8C (R165). -/
def execStyAbs (a16 : Word) (s : State) : Result := addressForm 0x8C (.absolute a16) sty s

end Sys2Proof.Machine
end

