-- ==== Sys2Proof/Machine/TransferIncrement.lean ====
section
/-! DEFINITION. Transfer and increment: TAX, INX (spec/44_transfer_increment.md R170 to R172). -/

namespace Sys2Proof.Machine

/-- The TAX handler (R170): flags from the value copied. -/
def tax (s : State) : State := (s.setX s.a).setZN s.a

/-- The INX handler (R171): flags from the new X. -/
def inx (s : State) : State := (s.setX (s.x + 1)).setZN (s.x + 1)

/-- `TAX`, opcode 0xAA (R170). -/
def execTax (s : State) : Result := implicitForm tax s

/-- `INX`, opcode 0xE8 (R171). -/
def execInx (s : State) : Result := implicitForm inx s

end Sys2Proof.Machine
end

