-- ==== Sys2Proof/Machine/Step.lean ====
section
/-! DEFINITION. One Step (spec/40_step_engine.md R80, R91) and where the next instruction is fetched. -/

namespace Sys2Proof.Machine

/-- `Step`: enabled only while RUN is Running (R91); otherwise it does nothing. Fetch and decode, then the whole step of the
decoded instruction, or the abort of a byte with no row. -/
def step (s : State) : Host.Outcome State Fault Refusal :=
  match s.run with
  | .running =>
    match s.fetchInstr with
    | some i => exec i s
    | none => .next s.unknownOpcode
  | .halted => .next s
  | .aborted => .next s

/-- `s` with an instruction's bytes where the next Step fetches, and RUN at Running, which the fetch needs (log 4). -/
def State.withFetchWord (s : State) (nbits w : Nat) : State :=
  { s with
    mem := s.mem.writeBytes s.pc [tableByte nbits w 0, tableByte nbits w 1, tableByte nbits w 2]
    run := .running }

end Sys2Proof.Machine
end

