-- ==== Sys2Proof/Machine/Bus.lean ====
section
/-! DEFINITION. The accesses one Step makes on the memory interface, in order (spec/20_memory.md R58, R59). They are a view of
the step, not state (R34): the core keeps no reference across steps. -/

namespace Sys2Proof.Machine

/-- One byte access of the core's memory master (R42, R43; spec/00_scope.md R8). -/
inductive Access where
  | read  (addr : Word) (value : Byte)
  | write (addr : Word) (value : Byte)
  deriving DecidableEq, Repr

/-- Is the access a write? -/
def Access.isWrite : Access → Bool
  | .read _ _ => false
  | .write _ _ => true

/-- A read of `a` in state `s`. -/
def State.readAccess (s : State) (a : Word) : Access := .read a (s.memRead a)

/-- The operand-byte and pointer reads of a mode, after the opcode fetch at `a0 = PC` and before the data access (R59). In mode
Immediate the handler's data read is the operand read. -/
def State.operandAccesses (s : State) (o : Operand) : List Access :=
  let a1 := s.pc + 1
  let a2 := s.pc + 2
  match o with
  | .implicit => []
  | .immediate _ => []
  | .zeroPage _ | .zeroPageX _ | .zeroPageY _ => [s.readAccess a1]
  | .absolute _ | .absoluteX _ | .absoluteY _ => [s.readAccess a1, s.readAccess a2]
  | .indirectX d8 =>
    let p := d8 + s.x
    [s.readAccess a1, s.readAccess (zext16 p), s.readAccess (zext16 (p + 1))]
  | .indirectY d8 => [s.readAccess a1, s.readAccess (zext16 d8), s.readAccess (zext16 (d8 + 1))]

/-- The register a store writes to memory (R150 to R152). -/
def State.storedByte (s : State) : Mnemonic → Byte
  | .stx => s.x
  | .sty => s.y
  | .sta | .lda | .ldx | .ldy | .tax | .inx | .adc | .brk => s.a

/-- The data access at `ea` (R59): a write for the stores, a read for the loads and ADC, none for the others. -/
def State.dataAccess (s : State) (m : Mnemonic) (ea : Word) : List Access :=
  if m.isStore then [.write ea (s.storedByte m)]
  else if m.needsAddress then [s.readAccess ea]
  else []

/-- The accesses of an instruction's step after its opcode fetch; none where the operand read aborts (R44, R59). -/
def State.instrAccesses (s : State) (i : Instr) : List Access :=
  if i.mnemonic.needsAddress then
    match s.preAdvance.resolve i.operand with
    | .ok ea => s.operandAccesses i.operand ++ s.dataAccess i.mnemonic ea
    | .error _ => []
  else []

/-- The accesses of one Step in order (R59): none unless RUN is Running; the opcode fetch alone for a byte with no row. -/
def busAccesses (s : State) : List Access :=
  match s.run with
  | .running =>
    s.readAccess s.pc ::
      match s.fetchInstr with
      | some i => s.instrAccesses i
      | none => []
  | .halted | .aborted => []

/-- Memory after the writes of a list of accesses. -/
def Memory.applyWrites : Memory → List Access → Memory
  | m, [] => m
  | m, .read _ _ :: rest => Memory.applyWrites m rest
  | m, .write a v :: rest => Memory.applyWrites (m.write a v) rest

end Sys2Proof.Machine
end

