-- ==== Sys2Proof/Machine/Engine.lean ====
section
/-! DEFINITION. The step engine as spec/40_step_engine.md R80 writes it, line by line, over a table taken as a parameter
(R9, R64; decision D4): mode and handler are selected independently by the descriptor (R96), and the resolver reads the operand
bytes from memory itself (spec/41_addressing.md R101 to R111). `step` and this engine are two readings of the spec; that they are
one machine on the block's table is stated in Certificates/Slice0/Obligations.lean. With another table
`UnsupportedAddressingMode` can occur here (R202). -/

namespace Sys2Proof.Machine.Engine

/-- `MemRead(a, 2)` with its abort (R44). -/
def read16 (s : State) (a : Word) : Except AbortKind Word :=
  match s.mem.read16 a with
  | some w => .ok w
  | none => .error .read16Window

/-- `Resolve(mode)` (R100 to R111), PC at operand byte 1. -/
def resolveMode (mode : Mode) (s : State) : Except AbortKind Word :=
  match mode with
  | .implicit  => .error .unsupportedAddressingMode
  | .immediate => .ok s.pc
  | .zeroPage  => .ok (zext16 (s.memRead s.pc))
  | .zeroPageX => .ok (zext16 (s.memRead s.pc + s.x))
  | .zeroPageY => .ok (zext16 (s.memRead s.pc + s.y))
  | .absolute  => read16 s s.pc
  | .absoluteX => do let base ← read16 s s.pc; return base + zext16 s.x
  | .absoluteY => do let base ← read16 s s.pc; return base + zext16 s.y
  | .indirectX => .ok (s.mem.zpRead16 (s.memRead s.pc + s.x))
  | .indirectY => .ok (s.mem.zpRead16 (s.memRead s.pc) + zext16 s.y)

/-- `Handler[mnemonic](ea)` of R96 for the seven mnemonics that need `ea` (LDA to STY and ADC). -/
def addressHandler (m : Mnemonic) (ea : Word) (s : State) : State :=
  match m with
  | .lda => lda (s.memRead ea) s
  | .ldx => ldx (s.memRead ea) s
  | .ldy => ldy (s.memRead ea) s
  | .sta => sta ea s
  | .stx => stx ea s
  | .sty => sty ea s
  | .adc => adc (s.memRead ea) s
  | .tax | .inx | .brk => s

/-- `Handler[mnemonic]` of R96: with an address, or without one in mode Implicit, where a handler that needs one raises
`UnsupportedAddressingMode` (R202). -/
def handler (m : Mnemonic) (ea : Option Word) (s : State) : Except AbortKind State :=
  match m with
  | .tax => .ok (tax s)
  | .inx => .ok (inx s)
  | .brk => .ok s.halt
  | .lda | .ldx | .ldy | .sta | .stx | .sty | .adc =>
    match ea with
    | some w => .ok (addressHandler m w s)
    | none => .error .unsupportedAddressingMode

/-- `if d.mode != Implicit: ea <- Resolve(d.mode)` (R80, R85). -/
def address (mode : Mode) (s : State) : Except AbortKind (Option Word) :=
  if mode = .implicit then .ok none else (resolveMode mode s).map some

/-- Phase 2, Execute (R80), with PC at `pc_before`. -/
def execute (d : Descriptor) (op : Byte) (opaddr : Word) (s : State) : State :=
  if d.mnemonic = .brk then s.halt
  else
    match address d.mode s with
    | .error kind => s.raise kind op opaddr
    | .ok ea =>
      match handler d.mnemonic ea s with
      | .error kind => s.raise kind op opaddr
      | .ok t => t.autoAdvance s.pc d.length

/-- `Step` (R80, R91) over any table. -/
def step (table : Byte → Option Descriptor) (s : State) : State :=
  if s.run = .running then
    let opaddr := s.pc
    let op := s.memRead s.pc
    let s1 := s.preAdvance
    match table op with
    | none => s1.raise .unknownOpcode op opaddr
    | some d => execute d op opaddr s1
  else s

end Sys2Proof.Machine.Engine
end

