-- ==== Sys2Proof/Machine/Transactions.lean ====
section
/-! DEFINITION. The host's transactions (spec/00_scope.md R8): Load, Reset, Step, Run, inspection and raw byte access. They act
between steps only (R7, decision D16). Reset is `State.resetTransaction` (Ops.lean), Step is `step`. -/

namespace Sys2Proof.Machine

/-- `Load(image)` (R235): the image at 0x8000 upward, then the base address as the reset vector; memory only. A longer image
than 0x7FFC bytes is refused with nothing written (R236). -/
def load (image : List Byte) (s : State) : Result :=
  if imageFits image then
    match (s.mem.writeBytes Config.loadBase image).write16 Config.resetVector Config.loadBase with
    | some m => .next (s.setMem m)
    | none => .refused .write16Window
  else .refused .imageTooLong

/-- Raw host read of one byte (R50). -/
def rawRead (s : State) (a : Word) : Byte := s.memRead a

/-- Raw host write of one byte (R50). -/
def rawWrite (s : State) (a : Word) (v : Byte) : State := s.memWrite a v

/-- `Run` (R89), at most `fuel` steps of it: `while RUN = Running: Step`. A run need not end, so the host's bound is an
argument (log 13). -/
def runSteps : Nat → State → Result
  | 0, s => .next s
  | fuel + 1, s =>
    if s.run = .running then
      match step s with
      | .next t => runSteps fuel t
      | .fault f => .fault f
      | .refused r => .refused r
    else .next s

/-- What inspection shows (R35): the registers, the raw-byte view of P (R28), RUN and ABORT. -/
structure Inspection where
  a : Byte
  x : Byte
  y : Byte
  p : Byte
  pc : Word
  sp : Byte
  run : RunStatus
  abort : Option AbortRecord
  deriving DecidableEq, Repr

/-- Inspection between steps (R35): reads, changes nothing. -/
def inspect (s : State) : Inspection where
  a := s.a
  x := s.x
  y := s.y
  p := s.p.toByte
  pc := s.pc
  sp := s.sp
  run := s.run
  abort := s.abort

/-- What the host may ask for between steps (R8, R35, R50). -/
inductive Transaction where
  | load (image : List Byte)
  | reset
  | step
  | run (fuel : Nat)
  | rawRead (a : Word)
  | rawWrite (a : Word) (v : Byte)
  | inspect
  deriving DecidableEq, Repr

/-- The state after a transaction. -/
def perform (t : Transaction) (s : State) : Result :=
  match t with
  | .load image => load image s
  | .reset => .next s.resetTransaction
  | .step => step s
  | .run fuel => runSteps fuel s
  | .rawRead _ => .next s
  | .rawWrite a v => .next (rawWrite s a v)
  | .inspect => .next s

end Sys2Proof.Machine
end

