-- ==== Sys2Proof/Safety.lean ====
section
/-! DEFINITION. What counts as a finished, a successful and a failed run (spec/10_state.md R32; spec/40_step_engine.md R90, R97;
spec/46_brk.md R196), and the invariants of the machine. -/

namespace Sys2Proof.Machine

/-- A run is over when RUN is Halted or Aborted (R97). -/
def State.stopped (s : State) : Bool := decide (s.run ≠ .running)

/-- A run from `s` ends in `t` (R89, R97). -/
def RunEndsIn (s t : State) : Prop := ∃ fuel, runSteps fuel s = .next t ∧ t.stopped = true

/-- A successful run is one that ends Halted (R97, R196). -/
def RunSucceedsIn (s t : State) : Prop := RunEndsIn s t ∧ t.run = .halted

/-- A run that ends Aborted is never a successful run (R32). -/
def RunFailsIn (s t : State) : Prop := RunEndsIn s t ∧ t.run = .aborted

/-- How the end of a run is reported (R32, R97): Aborted is a fault that carries ABORT. -/
def runReport (s : State) : Result :=
  match s.run with
  | .running | .halted => .next s
  | .aborted => .fault (.aborted s.abort)

/-- Does the instruction's step end in `Read16Window` at `s` (R205): an absolute mode with its opcode at 0xFFFE. -/
def State.inWindow (s : State) (i : Instr) : Bool := i.mode.isAbsolute && s.pc == 0xFFFE

/-- The structural invariant: memory is canonical, and ABORT holds a record exactly while RUN is Aborted (R33, R204, R231). -/
def State.Sound (s : State) : Prop :=
  s.mem.wf = true ∧ (s.abort.isSome = true ↔ s.run = .aborted)

/-- What holds from Reset on, because no instruction writes it (R14, R17, R19 to R23): SP is 0xFD, C, D, B and V are clear, I and
Break2 are set; and Z and N are not both set (R25). -/
def State.ResetHeld (s : State) : Prop :=
  s.sp = 0xFD ∧ s.p.c = false ∧ s.p.i = true ∧ s.p.d = false ∧ s.p.b = false ∧ s.p.u = true ∧ s.p.v = false ∧
    (s.p.z && s.p.n) = false

end Sys2Proof.Machine
end

