-- ==== Sys2Proof/Certificates/Slice0/Obligations.lean ====
section
/-! DEFINITION. The statements for the provers. Each docstring names the rule of spec/ it formalises; where a clause rests on
a decision of the spec (D<n>) or on a choice of the model (log <n>), it says so. All statements are for every state: every
value of Y, every memory content, every P (R230's open values). -/

open Sys2Proof Sys2Proof.Machine

namespace Sys2Proof.Machine.Stated

/-- `s` with Zero and Negative of `v` and every other flag as it was: R25 written out. -/
def withZN (s : State) (v : Byte) : State :=
  { s with p := { s.p with z := decide (v = 0x00), n := v.getLsbD 7 } }

/-- The state a load into A, X or Y leaves: the register, Zero, Negative and PC, nothing else. -/
def loadedA (s : State) (v : Byte) (len : Nat) : State := { withZN s v with a := v, pc := s.pc + BitVec.ofNat 16 len }
def loadedX (s : State) (v : Byte) (len : Nat) : State := { withZN s v with x := v, pc := s.pc + BitVec.ofNat 16 len }
def loadedY (s : State) (v : Byte) (len : Nat) : State := { withZN s v with y := v, pc := s.pc + BitVec.ofNat 16 len }

/-- The state a store of `v` at `ea` leaves: one byte of memory and PC, nothing else. -/
def stored (s : State) (ea : Word) (v : Byte) (len : Nat) : State :=
  { s with mem := s.mem.write ea v, pc := s.pc + BitVec.ofNat 16 len }

/-- The byte at an address. -/
def at_ (s : State) (ea : Word) : Byte := s.mem.read ea

/-- The 16-bit pointer at page-zero offsets `p` and `(p + 1) mod 256`, low byte first (R108). -/
def pointer (s : State) (p : Byte) : Word := hiLo (at_ s (zext16 (p + 1))) (at_ s (zext16 p))

/-- The state an abort of the instruction at PC leaves: PC past the opcode byte, RUN, ABORT, nothing else (R204, R206; D7). -/
def abortedAt (s : State) (kind : AbortKind) (op : Byte) : State :=
  { s with pc := s.pc + 1, run := .aborted, abort := some ⟨kind, op, s.pc⟩ }

/-- The opcode byte stands for `i`, and the whole step of `i` leaves `t`. -/
def Form (op b1 b2 : Byte) (i : Instr) (s t : State) : Prop :=
  decodeWindow op b1 b2 = some i ∧ exec i s = .next t

/-- The same for a form of an absolute mode: with its opcode at 0xFFFE it aborts with Read16Window instead (D6). -/
def FormOutsideWindow (op b1 b2 : Byte) (i : Instr) (s t : State) : Prop :=
  decodeWindow op b1 b2 = some i ∧
    (s.pc ≠ 0xFFFE → exec i s = .next t) ∧
    (s.pc = 0xFFFE → exec i s = .next (abortedAt s .read16Window op))

/-- Every byte of memory reads in `t` as it does in `s`. -/
def SameMemory (s t : State) : Prop := ∀ b : Word, t.mem.read b = s.mem.read b

/-- Carry, Interrupt-Disable, Decimal, Break, Break2 and Overflow are in `t` as they are in `s`. -/
def SameOtherFlags (s t : State) : Prop :=
  t.p.c = s.p.c ∧ t.p.i = s.p.i ∧ t.p.d = s.p.d ∧ t.p.b = s.p.b ∧ t.p.u = s.p.u ∧ t.p.v = s.p.v

/-- Zero and Negative of `t` are those of the result `v` (R25). -/
def FlagsOf (t : State) (v : Byte) : Prop :=
  (t.p.z = true ↔ v = 0x00) ∧ t.p.n = v.getLsbD 7

/-- SP, RUN and ABORT are in `t` as they are in `s`. -/
def SameControl (s t : State) : Prop := t.sp = s.sp ∧ t.run = s.run ∧ t.abort = s.abort

end Sys2Proof.Machine.Stated

open Sys2Proof.Machine.Stated

/-! ## Encoding -/

/-- Decoding the bytes of any instruction, whatever follows them, gives it back with every operand at every value (R60 to R62,
R66; the table is decision D4, log 8). -/
def Obligations.DecodeOfEncodeIsTheInstruction : Prop :=
  ∀ (i : Instr) (rest : List Byte), decode (encode i ++ rest) = .ok i rest

/-- Each decoded byte string has one meaning: encoding what was decoded gives back the bytes consumed (R60 to R62, R66; D4, log 8). -/
def Obligations.EncodeOfDecodeIsTheBytes : Prop :=
  ∀ (bytes : List Byte) (i : Instr) (rest : List Byte), decode bytes = .ok i rest → encode i ++ rest = bytes

/-- The decoder, the decode ROM and the instruction's own fields agree: same mnemonic, mode and length for every byte, no row
exactly where decoding fails (R64, R65, R66; D4, log 8). -/
def Obligations.DecoderAgreesWithOpcodeTable : Prop :=
  ∀ op b1 b2 : Byte,
    (decodeWindow op b1 b2).map (fun i => (i.mnemonic, i.mode, i.length)) =
      (opcodeLookup op).map (fun d => (d.mnemonic, d.mode, d.length))

/-- The table has 42 rows with distinct bytes, each with length 1 + operand bytes of its mode, none pairing a handler that needs
an address with Implicit; 214 bytes have no row (R63, R66, R69, R202: spec inferences and decision D4, log 8). -/
def Obligations.OpcodeTableIsConsistent : Prop :=
  opcodeTable.length = 42 ∧ (opcodeTable.map Row.opcode).Nodup ∧
    (∀ r ∈ opcodeTable, r.desc.length = 1 + r.desc.mode.operandBytes ∧ r.desc.modeServesHandler = true) ∧
    ((List.range 256).filter (fun n => (opcodeLookup (BitVec.ofNat 8 n)).isNone)).length = 214

/-- Words written out from the spec's encodings and the decode vectors of 95_test_vectors.md section 5. A9, A5, AA, E8 and 00 are the
document's bytes; that B6, BC, 91, 96, 8C, 61, 79 and AD stand for their forms and that 89, 9E and FF have no row is decision D4 (log 8,
PRESUMED); `truncated` is the decoder's own answer to a list that ends early, which memory never does (R60). -/
def Obligations.WrittenOutWordsDecode : Prop :=
  decode [0xA9, 0x05, 0x00] = .ok (.ldaImm 0x05) [0x00] ∧
  decode [0xA5, 0x10, 0x00] = .ok (.ldaZp 0x10) [0x00] ∧
  decode [0xB6, 0x80] = .ok (.ldxZpY 0x80) [] ∧
  decode [0xBC, 0x01, 0x02] = .ok (.ldyAbsX 0x0201) [] ∧
  decode [0x91, 0x40] = .ok (.staIndY 0x40) [] ∧
  decode [0x96, 0xFF] = .ok (.stxZpY 0xFF) [] ∧
  decode [0x8C, 0xFF, 0x01] = .ok (.styAbs 0x01FF) [] ∧
  decode [0xAA, 0xE8] = .ok .tax [0xE8] ∧ decode [0xE8] = .ok .inx [] ∧
  decode [0x61, 0x20] = .ok (.adcIndX 0x20) [] ∧ decode [0x79, 0x34, 0x12] = .ok (.adcAbsY 0x1234) [] ∧
  decode [0x00] = .ok .brk [] ∧
  decode [0x89, 0x00] = .unknownOpcode 0x89 ∧ decode [0x9E] = .unknownOpcode 0x9E ∧ decode [0xFF] = .unknownOpcode 0xFF ∧
  decode [0xAD, 0x34] = .truncated [0xAD, 0x34]

/-! ## The step -/

/-- A step runs the instruction its fetched bytes decode to, whole: exec is the step from opaddr on, and the step adds nothing
around it (R80, R81, R83). -/
def Obligations.StepRunsTheDecodedInstruction : Prop :=
  ∀ (s : State) (i : Instr), s.run = .running →
    decodeWindow (s.mem.read s.pc) (s.mem.read (s.pc + 1)) (s.mem.read (s.pc + 2)) = some i → step s = exec i s

/-- Where an instruction's bytes stand at PC, opcode first and consecutive modulo 2^16, a step runs that instruction (R60, R81). -/
def Obligations.StepRunsTheInstructionWhoseBytesStandAtPc : Prop :=
  ∀ (s : State) (i : Instr), s.run = .running →
    (∀ (k : Nat) (b : Byte), (encode i)[k]? = some b → s.mem.read (s.pc + BitVec.ofNat 16 k) = b) → step s = exec i s

/-- The step is the engine of R80 on the block's table: fetch, pre-advance, decode, resolver reading the operand bytes itself,
handler by mnemonic, auto-advance unless redirected, halt and aborts (R80, R85, R86, R96). The table is decision D4 (log 8), RUN and ABORT
D5 (log 5), the window's abort D6 (log 16); `step` has the operand bytes from the decoded instruction (log 9). -/
def Obligations.StepIsTheSpecEngine : Prop :=
  ∀ s : State, step s = .next (Engine.step opcodeLookup s)

/-- A step of a running machine has one of three outcomes (R90, an inference of the spec from R80; RUN and ABORT are decision D5):
Continue (PC advanced by the length), Halt (PC advanced by 1, nothing else), Abort (PC advanced by 1, ABORT, nothing else). -/
def Obligations.StepHasThreeOutcomes : Prop :=
  ∀ s : State, s.run = .running →
    (∃ i t, s.fetchInstr = some i ∧ i.mnemonic ≠ .brk ∧ step s = .next t ∧ t.run = .running ∧
      t.pc = s.pc + BitVec.ofNat 16 i.length ∧ t.sp = s.sp ∧ t.abort = s.abort) ∨
    (s.mem.read s.pc = 0x00 ∧ step s = .next { s with pc := s.pc + 1, run := .halted }) ∨
    (∃ kind, step s = .next (abortedAt s kind (s.mem.read s.pc)))

/-- A step that ends Aborted changes nothing but PC, RUN and ABORT, which holds the opcode byte and its address (R206, an
inference of the spec; R204; D5, D7). -/
def Obligations.AbortIsPrecise : Prop :=
  ∀ s t : State, s.run = .running → step s = .next t → t.run = .aborted →
    ∃ kind, t = abortedAt s kind (s.mem.read s.pc) ∧
      ((kind = .unknownOpcode ∧ opcodeLookup (s.mem.read s.pc) = none) ∨
        (kind = .read16Window ∧ s.pc = 0xFFFE ∧ ∃ d, opcodeLookup (s.mem.read s.pc) = some d ∧ d.mode.isAbsolute = true))

/-- Over any table a fetched byte without a row aborts the run with UnknownOpcode after the pre-advance and before anything else (R201);
on the block's table so does the step, whose only access is the opcode fetch. That 214 bytes have no row is the table of decision D4
(log 8, PRESUMED); RUN and ABORT are the state of D5, ABORT's `opaddr` and the PC left are D7 (log 19). -/
def Obligations.ByteWithoutRowAbortsUnknownOpcode : Prop :=
  (∀ (table : Byte → Option Descriptor) (s : State), s.run = .running → table (s.mem.read s.pc) = none →
    Engine.step table s = abortedAt s .unknownOpcode (s.mem.read s.pc)) ∧
  (∀ s : State, s.run = .running → opcodeLookup (s.mem.read s.pc) = none →
    step s = .next (abortedAt s .unknownOpcode (s.mem.read s.pc)) ∧ busAccesses s = [.read s.pc (s.mem.read s.pc)]) ∧
  ((List.range 256).filter (fun n => (opcodeLookup (BitVec.ofNat 8 n)).isNone)).length = 214

/-- The absolute-mode opcodes fetched from 0xFFFE abort with Read16Window before any operand byte is read (R205; the abort is
decision D6, log 16; ABORT's record D7, log 19; which bytes have an absolute mode D4, log 8). -/
def Obligations.AbsoluteFormAtFFFEAborts : Prop :=
  ∀ (s : State) (d : Descriptor), s.run = .running → s.pc = 0xFFFE →
    opcodeLookup (s.mem.read 0xFFFE) = some d → d.mode.isAbsolute = true →
    step s = .next { s with pc := 0xFFFF, run := .aborted, abort := some ⟨.read16Window, s.mem.read 0xFFFE, 0xFFFE⟩ } ∧
      busAccesses s = [.read 0xFFFE (s.mem.read 0xFFFE)]

/-- Over any table, a row that pairs a handler that needs an address with Implicit aborts with UnsupportedAddressingMode, as does a
resolver entered with Implicit, and nothing else raises it (R202). The state the abort leaves (RUN, ABORT with `opaddr`, PC past the
opcode byte) is that of decisions D5 and D7 (log 19); that the block's table has no such row rests on D4 (log 8, PRESUMED). -/
def Obligations.HandlerWithoutAddressAbortsUnsupportedMode : Prop :=
  (∀ (table : Byte → Option Descriptor) (s : State) (d : Descriptor), s.run = .running →
    table (s.mem.read s.pc) = some d → d.mnemonic.needsAddress = true → d.mode = .implicit →
    Engine.step table s = abortedAt s .unsupportedAddressingMode (s.mem.read s.pc)) ∧
  (∀ s : State, Engine.resolveMode .implicit s = .error .unsupportedAddressingMode ∧
    s.resolve .implicit = .error .unsupportedAddressingMode) ∧
  (∀ (table : Byte → Option Descriptor) (s : State) (op : Byte) (opaddr : Word), s.run = .running →
    (Engine.step table s).run = .aborted → (Engine.step table s).abort = some ⟨.unsupportedAddressingMode, op, opaddr⟩ →
    ∃ d, table (s.mem.read s.pc) = some d ∧ d.mnemonic.needsAddress = true ∧ d.mode = .implicit) ∧
  (∀ (b : Byte) (d : Descriptor), opcodeLookup b = some d → ¬ (d.mnemonic.needsAddress = true ∧ d.mode = .implicit))

/-- R86: after the handler returns `t`, PC moves `length - 1` further if the handler left it at `pc_before`, and stays where the handler
set it otherwise; over any table, for any row but BRK's. -/
def Obligations.AutoAdvanceUnlessRedirected : Prop :=
  (∀ (s : State) (pcBefore : Word) (length : Nat),
    (s.pc = pcBefore → s.autoAdvance pcBefore length = { s with pc := s.pc + BitVec.ofNat 16 (length - 1) }) ∧
    (s.pc ≠ pcBefore → s.autoAdvance pcBefore length = s)) ∧
  (∀ (table : Byte → Option Descriptor) (s t : State) (d : Descriptor) (ea : Option Word), s.run = .running →
    table (s.mem.read s.pc) = some d → d.mnemonic ≠ .brk → Engine.address d.mode s.preAdvance = .ok ea →
    Engine.handler d.mnemonic ea s.preAdvance = .ok t → Engine.step table s = t.autoAdvance (s.pc + 1) d.length)

/-- The cycles field is read by nothing: two tables that differ in it alone make one machine (R75, R246; log 11). -/
def Obligations.CyclesAreReadByNothing : Prop :=
  ∀ (table table' : Byte → Option Descriptor) (s : State),
    (∀ b, (table b).map (fun d => (d.mnemonic, d.mode, d.length)) = (table' b).map (fun d => (d.mnemonic, d.mode, d.length))) →
    Engine.step table s = Engine.step table' s

/-- While RUN is Halted or Aborted, Step and Run change nothing, and no transaction but Reset changes RUN or ABORT (R31, R91,
R211; decision D5, log 6). -/
def Obligations.StoppedMachineStaysUntilReset : Prop :=
  ∀ s : State, s.run ≠ .running →
    step s = .next s ∧ (∀ fuel, runSteps fuel s = .next s) ∧
    (∀ tr t, tr ≠ .reset → perform tr s = .next t → t.run = s.run ∧ t.abort = s.abort)

/-! ## Flags -/

/-- R25: SetZN sets Zero iff the value is 0x00 and Negative iff its bit 7 is set (it is at least 0x80), clears each otherwise, and
leaves the six other flags and everything else; Zero and Negative are never both set. It is the final step of every load, TAX, INX
and ADC: P is then SetZN of the register written (outside the 0xFFFF window of D6, where no handler runs). -/
def Obligations.SetZnWritesZeroAndNegative : Prop :=
  (∀ (s : State) (v : Byte),
    s.setZN v = withZN s v ∧ ((s.setZN v).p.n = true ↔ 0x80 ≤ v.toNat) ∧ ((s.setZN v).p.z = true ↔ v.toNat = 0) ∧
      ¬ ((s.setZN v).p.z = true ∧ (s.setZN v).p.n = true)) ∧
  (∀ (i : Instr) (s : State), i.mnemonic.isStore = false → i.mnemonic ≠ .brk → s.inWindow i = false →
    ∃ t, exec i s = .next t ∧ t.p = s.p.setZN (match i.mnemonic with
      | .lda | .adc => t.a
      | .ldx | .tax | .inx => t.x
      | .ldy => t.y
      | .sta | .stx | .sty | .brk => 0x00))

/-- The raw byte of P after SetZN is `(P and 0x7D) or (0x02 if v = 0) or (v and 0x80)`, the reset state reads 0x24, and the raw
byte holds all of P (R16, R28; bit positions are decision D2, log 7). -/
def Obligations.RawByteOfFlags : Prop :=
  (∀ (f : Flags) (v : Byte),
    (f.setZN v).toByte = (f.toByte &&& 0x7D) ||| (if v = 0x00 then 0x02 else 0x00) ||| (v &&& 0x80)) ∧
  Flags.reset.toByte = 0x24 ∧ (∀ f : Flags, Flags.ofByte f.toByte = f) ∧ (∀ v : Byte, (Flags.ofByte v).toByte = v)

/-- R26: every instruction leaves Carry, Interrupt-Disable, Decimal, Break, Break2 and Overflow as they are; the stores and BRK
leave all of P; only Reset writes P as a byte, so no other transaction touches the six. -/
def Obligations.InstructionsWriteOnlyTheirFlags : Prop :=
  (∀ (i : Instr) (s : State), ∃ t, exec i s = .next t ∧ SameOtherFlags s t ∧
    (i.mnemonic.isStore = true ∨ i.mnemonic = .brk → t.p = s.p)) ∧
  (∀ (tr : Transaction) (s t : State), tr ≠ .reset → perform tr s = .next t → SameOtherFlags s t)

/-- No instruction reads a flag: with any other P the step gives the same registers, memory, PC, RUN and ABORT, and the same Zero
and Negative wherever it writes them (R27, an inference of the spec; R17 to R24). -/
def Obligations.NoInstructionReadsAFlag : Prop :=
  ∀ (i : Instr) (s : State) (q : Flags), ∃ t t', exec i s = .next t ∧ exec i { s with p := q } = .next t' ∧
    { t' with p := t.p } = t ∧
    (i.mnemonic.isStore = false → i.mnemonic ≠ .brk → s.inWindow i = false → t'.p.z = t.p.z ∧ t'.p.n = t.p.n)

/-! ## Memory -/

/-- R43 with R42: a write sets the byte at its address and no other; every address is writable and readable. -/
def Obligations.WriteSetsOneByte : Prop :=
  ∀ (m : Memory), m.wf = true → ∀ (a b : Word) (v : Byte), (m.write a v).read b = if b = a then v else m.read b

/-- Canonical memories that read alike are the same data (the model's form of memory, log 1). -/
def Obligations.CanonicalMemoryIsDetermined : Prop :=
  ∀ m m' : Memory, m.wf = true → m'.wf = true → (∀ a : Word, m.read a = m'.read a) → m = m'

/-- 16-bit accesses are little-endian and round trip; at 0xFFFF neither is defined (R44, R45, R47; D6 and U1 at 0xFFFF). -/
def Obligations.SixteenBitAccessesRoundTrip : Prop :=
  ∀ (m : Memory) (a v : Word), m.wf = true →
    (a = 0xFFFF → m.read16 a = none ∧ m.write16 a v = none) ∧
    (a ≠ 0xFFFF → ∃ m', m.write16 a v = some m' ∧ m'.read16 a = some v ∧
      (m'.read a).toNat = v.toNat % 256 ∧ (m'.read (a + 1)).toNat = v.toNat / 256 ∧
      ∀ b, b ≠ a → b ≠ a + 1 → m'.read b = m.read b)

/-! ## Effective addresses, in numbers -/

/-- PC itself; the operand byte zero-extended; operand byte plus X, or Y, modulo 256, always in page zero (R101 to R104). `s` has PC
at operand byte 1: the engine's resolver reads that byte itself, the model's has it from the decoded instruction. The last clause (no
store has mode Immediate, only LDX and STX have ZeroPage_Y) rests on the mode sets of decision D4 (log 8, PRESUMED). -/
def Obligations.ImmediateAndZeroPageAddresses : Prop :=
  (∀ (s : State) (d8 : Byte), s.mem.read s.pc = d8 → ∃ z zx zy : Word,
    (s.resolve (.immediate d8) = .ok s.pc ∧ Engine.resolveMode .immediate s = .ok s.pc) ∧
    (s.resolve (.zeroPage d8) = .ok z ∧ Engine.resolveMode .zeroPage s = .ok z ∧ z.toNat = d8.toNat) ∧
    (s.resolve (.zeroPageX d8) = .ok zx ∧ Engine.resolveMode .zeroPageX s = .ok zx ∧
      zx.toNat = (d8.toNat + s.x.toNat) % 256) ∧
    (s.resolve (.zeroPageY d8) = .ok zy ∧ Engine.resolveMode .zeroPageY s = .ok zy ∧
      zy.toNat = (d8.toNat + s.y.toNat) % 256)) ∧
  (∀ i : Instr, (i.mode = .immediate → i.mnemonic.isStore = false) ∧
    (i.mode = .zeroPageY → i.mnemonic = .ldx ∨ i.mnemonic = .stx))

/-- The absolute modes outside the 0xFFFF window: the operand bytes at PC and PC + 1, little-endian, plus X or Y modulo 65,536; with PC at
0xFFFF each aborts (R105 to R107; the abort is decision D6, log 16). -/
def Obligations.AbsoluteAddresses : Prop :=
  ∀ (s : State) (lo hi : Byte), s.mem.read s.pc = lo → s.mem.read (s.pc + 1) = hi →
    (s.pc ≠ 0xFFFF → ∃ w wx wy : Word,
      (s.resolve (.absolute (hiLo hi lo)) = .ok w ∧ Engine.resolveMode .absolute s = .ok w ∧
        w.toNat = hi.toNat * 256 + lo.toNat) ∧
      (s.resolve (.absoluteX (hiLo hi lo)) = .ok wx ∧ Engine.resolveMode .absoluteX s = .ok wx ∧
        wx.toNat = (hi.toNat * 256 + lo.toNat + s.x.toNat) % 65536) ∧
      (s.resolve (.absoluteY (hiLo hi lo)) = .ok wy ∧ Engine.resolveMode .absoluteY s = .ok wy ∧
        wy.toNat = (hi.toNat * 256 + lo.toNat + s.y.toNat) % 65536)) ∧
    (s.pc = 0xFFFF → (∀ w, s.resolve (.absolute w) = .error .read16Window ∧ s.resolve (.absoluteX w) = .error .read16Window ∧
        s.resolve (.absoluteY w) = .error .read16Window) ∧
      ∀ m : Mode, m.isAbsolute = true → Engine.resolveMode m s = .error .read16Window)

/-- R109, R110: the pointer is two bytes of page zero, the second at offset + 1 modulo 256; X is added to the offset modulo 256,
Y to the pointer modulo 65,536. `s` has PC at operand byte 1. -/
def Obligations.IndirectAddresses : Prop :=
  ∀ (s : State) (d8 : Byte), s.mem.read s.pc = d8 → ∃ ix iy : Word,
    (s.resolve (.indirectX d8) = .ok ix ∧ Engine.resolveMode .indirectX s = .ok ix ∧
      ∀ lo hi : Word, lo.toNat = (d8.toNat + s.x.toNat) % 256 → hi.toNat = (d8.toNat + s.x.toNat + 1) % 256 →
        ix.toNat = (s.mem.read hi).toNat * 256 + (s.mem.read lo).toNat) ∧
    (s.resolve (.indirectY d8) = .ok iy ∧ Engine.resolveMode .indirectY s = .ok iy ∧
      ∀ lo hi : Word, lo.toNat = d8.toNat → hi.toNat = (d8.toNat + 1) % 256 →
        iy.toNat = ((s.mem.read hi).toNat * 256 + (s.mem.read lo).toNat + s.y.toNat) % 65536)

/-! ## Each form's whole step: it answers the next state the rules give, for every state and operand -/

/-- R120, for the eight LDA forms (form rules R123 to R130, inferences of the spec; bytes by D4, the window by D6). -/
def Obligations.LdaFormsLoadA : Prop :=
  ∀ (s : State) (b1 b2 : Byte),
    Form 0xA9 b1 b2 (.ldaImm b1) s (loadedA s b1 2) ∧
    Form 0xA5 b1 b2 (.ldaZp b1) s (loadedA s (at_ s (zext16 b1)) 2) ∧
    Form 0xB5 b1 b2 (.ldaZpX b1) s (loadedA s (at_ s (zext16 (b1 + s.x))) 2) ∧
    FormOutsideWindow 0xAD b1 b2 (.ldaAbs (hiLo b2 b1)) s (loadedA s (at_ s (hiLo b2 b1)) 3) ∧
    FormOutsideWindow 0xBD b1 b2 (.ldaAbsX (hiLo b2 b1)) s (loadedA s (at_ s (hiLo b2 b1 + zext16 s.x)) 3) ∧
    FormOutsideWindow 0xB9 b1 b2 (.ldaAbsY (hiLo b2 b1)) s (loadedA s (at_ s (hiLo b2 b1 + zext16 s.y)) 3) ∧
    Form 0xA1 b1 b2 (.ldaIndX b1) s (loadedA s (at_ s (pointer s (b1 + s.x))) 2) ∧
    Form 0xB1 b1 b2 (.ldaIndY b1) s (loadedA s (at_ s (pointer s b1 + zext16 s.y)) 2)

/-- R121, for the five LDX forms (form rules R131 to R135): the index is Y, and the old X plays no part in the address. -/
def Obligations.LdxFormsLoadX : Prop :=
  ∀ (s : State) (b1 b2 : Byte),
    Form 0xA2 b1 b2 (.ldxImm b1) s (loadedX s b1 2) ∧
    Form 0xA6 b1 b2 (.ldxZp b1) s (loadedX s (at_ s (zext16 b1)) 2) ∧
    Form 0xB6 b1 b2 (.ldxZpY b1) s (loadedX s (at_ s (zext16 (b1 + s.y))) 2) ∧
    FormOutsideWindow 0xAE b1 b2 (.ldxAbs (hiLo b2 b1)) s (loadedX s (at_ s (hiLo b2 b1)) 3) ∧
    FormOutsideWindow 0xBE b1 b2 (.ldxAbsY (hiLo b2 b1)) s (loadedX s (at_ s (hiLo b2 b1 + zext16 s.y)) 3)

/-- R122, for the five LDY forms (form rules R136 to R140): the index is X, and the old Y plays no part in the address. -/
def Obligations.LdyFormsLoadY : Prop :=
  ∀ (s : State) (b1 b2 : Byte),
    Form 0xA0 b1 b2 (.ldyImm b1) s (loadedY s b1 2) ∧
    Form 0xA4 b1 b2 (.ldyZp b1) s (loadedY s (at_ s (zext16 b1)) 2) ∧
    Form 0xB4 b1 b2 (.ldyZpX b1) s (loadedY s (at_ s (zext16 (b1 + s.x))) 2) ∧
    FormOutsideWindow 0xAC b1 b2 (.ldyAbs (hiLo b2 b1)) s (loadedY s (at_ s (hiLo b2 b1)) 3) ∧
    FormOutsideWindow 0xBC b1 b2 (.ldyAbsX (hiLo b2 b1)) s (loadedY s (at_ s (hiLo b2 b1 + zext16 s.x)) 3)

/-- R150, for the seven STA forms (form rules R153 to R159). -/
def Obligations.StaFormsStoreA : Prop :=
  ∀ (s : State) (b1 b2 : Byte),
    Form 0x85 b1 b2 (.staZp b1) s (stored s (zext16 b1) s.a 2) ∧
    Form 0x95 b1 b2 (.staZpX b1) s (stored s (zext16 (b1 + s.x)) s.a 2) ∧
    FormOutsideWindow 0x8D b1 b2 (.staAbs (hiLo b2 b1)) s (stored s (hiLo b2 b1) s.a 3) ∧
    FormOutsideWindow 0x9D b1 b2 (.staAbsX (hiLo b2 b1)) s (stored s (hiLo b2 b1 + zext16 s.x) s.a 3) ∧
    FormOutsideWindow 0x99 b1 b2 (.staAbsY (hiLo b2 b1)) s (stored s (hiLo b2 b1 + zext16 s.y) s.a 3) ∧
    Form 0x81 b1 b2 (.staIndX b1) s (stored s (pointer s (b1 + s.x)) s.a 2) ∧
    Form 0x91 b1 b2 (.staIndY b1) s (stored s (pointer s b1 + zext16 s.y) s.a 2)

/-- R151, R152, for the three STX and the three STY forms (form rules R160 to R165): STX indexes with Y, STY with X. -/
def Obligations.StxAndStyFormsStore : Prop :=
  ∀ (s : State) (b1 b2 : Byte),
    Form 0x86 b1 b2 (.stxZp b1) s (stored s (zext16 b1) s.x 2) ∧
    Form 0x96 b1 b2 (.stxZpY b1) s (stored s (zext16 (b1 + s.y)) s.x 2) ∧
    FormOutsideWindow 0x8E b1 b2 (.stxAbs (hiLo b2 b1)) s (stored s (hiLo b2 b1) s.x 3) ∧
    Form 0x84 b1 b2 (.styZp b1) s (stored s (zext16 b1) s.y 2) ∧
    Form 0x94 b1 b2 (.styZpX b1) s (stored s (zext16 (b1 + s.x)) s.y 2) ∧
    FormOutsideWindow 0x8C b1 b2 (.styAbs (hiLo b2 b1)) s (stored s (hiLo b2 b1) s.y 3)

/-- R180, for the eight ADC forms (form rules R181 to R188): the sum modulo 256 without the carry, Zero and Negative of it, Carry,
Overflow and Decimal neither read nor written (D13). -/
def Obligations.AdcFormsAddWithoutCarry : Prop :=
  ∀ (s : State) (b1 b2 : Byte),
    Form 0x69 b1 b2 (.adcImm b1) s (loadedA s (s.a + b1) 2) ∧
    Form 0x65 b1 b2 (.adcZp b1) s (loadedA s (s.a + at_ s (zext16 b1)) 2) ∧
    Form 0x75 b1 b2 (.adcZpX b1) s (loadedA s (s.a + at_ s (zext16 (b1 + s.x))) 2) ∧
    FormOutsideWindow 0x6D b1 b2 (.adcAbs (hiLo b2 b1)) s (loadedA s (s.a + at_ s (hiLo b2 b1)) 3) ∧
    FormOutsideWindow 0x7D b1 b2 (.adcAbsX (hiLo b2 b1)) s (loadedA s (s.a + at_ s (hiLo b2 b1 + zext16 s.x)) 3) ∧
    FormOutsideWindow 0x79 b1 b2 (.adcAbsY (hiLo b2 b1)) s (loadedA s (s.a + at_ s (hiLo b2 b1 + zext16 s.y)) 3) ∧
    Form 0x61 b1 b2 (.adcIndX b1) s (loadedA s (s.a + at_ s (pointer s (b1 + s.x))) 2) ∧
    Form 0x71 b1 b2 (.adcIndY b1) s (loadedA s (s.a + at_ s (pointer s b1 + zext16 s.y)) 2)

/-- R170, R171: TAX copies A to X, INX adds 1 to X modulo 256, each with Zero and Negative of the new X; the only memory access is
the opcode fetch. -/
def Obligations.TaxAndInxWriteX : Prop :=
  ∀ (s : State) (b1 b2 : Byte),
    Form 0xAA b1 b2 .tax s (loadedX s s.a 1) ∧ Form 0xE8 b1 b2 .inx s (loadedX s (s.x + 1) 1) ∧
    (s.run = .running → s.mem.read s.pc = 0xAA ∨ s.mem.read s.pc = 0xE8 →
      busAccesses s = [.read s.pc (s.mem.read s.pc)])

/-- BRK halts: PC past the opcode byte, RUN Halted, no register, flag or memory byte written, nothing read but the opcode byte, so
nothing is pushed and no vector is read (R195; length 1 and the PC are decision D12, RUN is D5). -/
def Obligations.BrkOnlyHalts : Prop :=
  ∀ (s : State) (b1 b2 : Byte),
    Form 0x00 b1 b2 .brk s { s with pc := s.pc + 1, run := .halted } ∧
    (s.run = .running → s.mem.read s.pc = 0x00 → busAccesses s = [.read s.pc 0x00])

/-! ## The laws of the families, with their frames -/

/-- R141, for every load form outside the window: the register is the byte loaded, which is `M[ea]` of the fetched instruction; Zero and
Negative are its; PC moves by the length; the other flags, the two other data registers, SP, RUN, ABORT and every memory byte are as before. -/
def Obligations.LawOfTheLoads : Prop :=
  ∀ (i : Instr) (s : State), i.mnemonic = .lda ∨ i.mnemonic = .ldx ∨ i.mnemonic = .ldy → s.inWindow i = false →
    ∃ ea v t, s.preAdvance.resolve i.operand = .ok ea ∧ s.preAdvance.operandByte i.operand = .ok v ∧
      (s.fetchInstr = some i → v = s.mem.read ea) ∧ exec i s = .next t ∧
      t.a = (if i.mnemonic = .lda then v else s.a) ∧ t.x = (if i.mnemonic = .ldx then v else s.x) ∧
      t.y = (if i.mnemonic = .ldy then v else s.y) ∧ FlagsOf t v ∧ SameOtherFlags s t ∧ SameControl s t ∧
      SameMemory s t ∧ t.pc = s.pc + BitVec.ofNat 16 i.length

/-- R166, for every store form outside the window: M[ea] is the register, every other memory byte is as before, as are A, X, Y, SP,
all eight flags, RUN and ABORT, and PC moves by the length; the step writes one byte and reads, after the opcode, only its own
operand bytes (byte 2 in the 3-byte forms alone) and in the indirect modes its two pointer bytes. -/
def Obligations.LawOfTheStores : Prop :=
  ∀ (i : Instr) (s : State), i.mnemonic.isStore = true → s.inWindow i = false →
    ∃ ea t, s.preAdvance.resolve i.operand = .ok ea ∧ exec i s = .next t ∧
      (s.mem.wf = true → t.mem.read ea =
        (if i.mnemonic = .sta then s.a else if i.mnemonic = .stx then s.x else s.y)) ∧
      (∀ b : Word, b ≠ ea → t.mem.read b = s.mem.read b) ∧
      t.a = s.a ∧ t.x = s.x ∧ t.y = s.y ∧ t.p = s.p ∧ SameControl s t ∧ t.pc = s.pc + BitVec.ofNat 16 i.length ∧
      (s.instrAccesses i).filter Access.isWrite = [.write ea (s.storedByte i.mnemonic)] ∧
      (∀ a v, .read a v ∈ s.instrAccesses i → a = s.pc + 1 ∨ (i.length = 3 ∧ a = s.pc + 2) ∨
        (∃ d8, i.operand = .indirectX d8 ∧ (a = zext16 (d8 + s.x) ∨ a = zext16 (d8 + s.x + 1))) ∨
        (∃ d8, i.operand = .indirectY d8 ∧ (a = zext16 d8 ∨ a = zext16 (d8 + 1))))

/-- R189, for every ADC form outside the window: A is (old A + operand byte) mod 256, the operand byte being `M[ea]` of the fetched
instruction; Zero and Negative are its; the other flags, X, Y, SP, RUN, ABORT and every memory byte are as before, PC moves by the length,
and no flag plays a part in the result. -/
def Obligations.LawOfAdc : Prop :=
  ∀ (i : Instr) (s : State) (q : Flags), i.mnemonic = .adc → s.inWindow i = false →
    ∃ ea m t t', s.preAdvance.resolve i.operand = .ok ea ∧ s.preAdvance.operandByte i.operand = .ok m ∧
      (s.fetchInstr = some i → m = s.mem.read ea) ∧ exec i s = .next t ∧
      t.a.toNat = (s.a.toNat + m.toNat) % 256 ∧ FlagsOf t t.a ∧ SameOtherFlags s t ∧ t.x = s.x ∧ t.y = s.y ∧
      SameControl s t ∧ SameMemory s t ∧ t.pc = s.pc + BitVec.ofNat 16 i.length ∧
      exec i { s with p := q } = .next t' ∧ t'.a = t.a

/-- The frame of TAX, INX and BRK (R172, R195): A, Y, SP, ABORT, the six other flags and every memory byte are as before; BRK leaves X
and all of P too, and PC moves by 1. -/
def Obligations.FrameOfTheImplicitForms : Prop :=
  ∀ (i : Instr) (s : State), i.mode = .implicit →
    ∃ t, exec i s = .next t ∧ t.a = s.a ∧ t.y = s.y ∧ t.sp = s.sp ∧ t.abort = s.abort ∧ SameOtherFlags s t ∧
      SameMemory s t ∧ t.pc = s.pc + 1 ∧
      (i.mnemonic = .brk → t.x = s.x ∧ t.p = s.p ∧ t.run = .halted) ∧
      (i.mnemonic ≠ .brk → FlagsOf t t.x ∧ t.run = s.run)

/-- Applying INX 256 times returns X to its starting value (R172's last sentence, an inference of the spec from R171 and R6). -/
def Obligations.Inx256TimesReturnsX : Prop :=
  ∀ (run : Nat → State), (∀ k, exec .inx (run k) = .next (run (k + 1))) → (run 256).x = (run 0).x ∧ (run 128).x = (run 0).x + 0x80

/-! ## Who writes what -/

/-- What each piece of state is written by: A by LDA and ADC, X by LDX, TAX and INX, Y by LDY, SP by nothing, memory by the stores, RUN by
BRK and the abort, PC always forward by the length, except that the abort leaves it past the opcode byte (R11 to R15, R92). -/
def Obligations.OnlyTheNamedInstructionsWrite : Prop :=
  ∀ (i : Instr) (s : State), ∃ t, exec i s = .next t ∧ t.sp = s.sp ∧
    (t.a ≠ s.a → i.mnemonic = .lda ∨ i.mnemonic = .adc) ∧
    (t.x ≠ s.x → i.mnemonic = .ldx ∨ i.mnemonic = .tax ∨ i.mnemonic = .inx) ∧
    (t.y ≠ s.y → i.mnemonic = .ldy) ∧
    (t.mem ≠ s.mem → i.mnemonic.isStore = true) ∧
    (t.run ≠ s.run → i.mnemonic = .brk ∨ s.inWindow i = true) ∧
    (t.abort ≠ s.abort → s.inWindow i = true) ∧
    t.pc = s.pc + BitVec.ofNat 16 (if s.inWindow i then 1 else i.length)

/-- SP plays no part in any step: with any other SP a step gives the same state but for SP, which it keeps (R14). -/
def Obligations.StackPointerPlaysNoPart : Prop :=
  ∀ (s : State) (v : Byte), ∃ t, step s = .next t ∧ t.sp = s.sp ∧ step { s with sp := v } = .next { t with sp := v }

/-- A store is seen by the very next fetch: the opcode byte fetched next is the byte just stored there (R56, an inference of the spec). -/
def Obligations.StoreIsSeenByTheNextFetch : Prop :=
  ∀ (i : Instr) (s : State) (ea : Word), s.mem.wf = true → i.mnemonic.isStore = true →
    s.preAdvance.resolve i.operand = .ok ea → ea = s.pc + BitVec.ofNat 16 i.length →
    ∃ t, exec i s = .next t ∧ t.mem.read t.pc = s.storedByte i.mnemonic ∧
      t.fetchInstr = decodeWindow (s.storedByte i.mnemonic) (s.mem.read (ea + 1)) (s.mem.read (ea + 2))

/-! ## Invariants -/

/-- Every step keeps memory canonical and ABORT held exactly while Aborted (R33, R204; the canonical form is the model's, log 1). -/
def Obligations.StepKeepsSound : Prop :=
  ∀ s t : State, s.Sound → step s = .next t → t.Sound

/-- Every step keeps SP at 0xFD, Carry, Decimal, Break and Overflow clear, Interrupt-Disable and Break2 set, and Zero and Negative not both
set (R14, R17, R19 to R23, R25). -/
def Obligations.StepKeepsResetHeldState : Prop :=
  ∀ s t : State, s.ResetHeld → step s = .next t → t.ResetHeld

/-- Every transaction of the host keeps the structural invariant, Load, raw writes and Run among them, and Run the reset-held one (R8, R35, R50). -/
def Obligations.TransactionsKeepTheInvariants : Prop :=
  ∀ (tr : Transaction) (s t : State), perform tr s = .next t → (s.Sound → t.Sound) ∧ (s.ResetHeld → t.ResetHeld)

/-- Both invariants hold after Reset from any state whose memory is canonical, at power-on too in whatever state it is, and in State.reset
(R230, R231). -/
def Obligations.ResetEstablishesTheInvariants : Prop :=
  (∀ s : State, s.mem.wf = true → s.resetTransaction.Sound ∧ s.resetTransaction.ResetHeld) ∧
  (∀ (a x y : Byte) (pc : Word) (m : Memory), m.wf = true →
    (State.powerOn a x y pc m).Sound ∧ (State.powerOn a x y pc m).ResetHeld) ∧
  State.reset.Sound ∧ State.reset.ResetHeld

/-! ## The bus -/

/-- The addresses each form accesses, in order, after the opcode fetch at `a0`: operand bytes, pointer bytes, the data access last; nothing
after the fetch in mode Implicit (R59, an inference of the spec; order of pointer bytes by D11, no other access by D18; log 17). -/
def Obligations.AccessesOfEachMode : Prop :=
  ∀ (s : State) (i : Instr), s.run = .running → s.fetchInstr = some i → s.inWindow i = false →
    ∃ ops : List Word,
      busAccesses s = (s.pc :: ops).map s.readAccess ++
        (match s.preAdvance.resolve i.operand with
          | .ok ea => s.dataAccess i.mnemonic ea
          | .error _ => []) ∧
      ops = match i.operand with
        | .implicit | .immediate _ => []
        | .zeroPage _ | .zeroPageX _ | .zeroPageY _ => [s.pc + 1]
        | .absolute _ | .absoluteX _ | .absoluteY _ => [s.pc + 1, s.pc + 2]
        | .indirectX d8 => [s.pc + 1, zext16 (d8 + s.x), zext16 (d8 + s.x + 1)]
        | .indirectY d8 => [s.pc + 1, zext16 d8, zext16 (d8 + 1)]

/-- A step depends on memory through the reads of its access list alone: in any memory that answers them alike, it makes the same accesses
and gives the same state but for the memory it runs in (R58, R59; log 10). -/
def Obligations.StepDependsOnlyOnItsReads : Prop :=
  ∀ (s : State) (m : Memory), (∀ a v, .read a v ∈ busAccesses s → m.read a = v) →
    busAccesses (s.setMem m) = busAccesses s ∧
      ∃ t t', step s = .next t ∧ step (s.setMem m) = .next t' ∧ t'.setMem t.mem = t

/-- A step changes memory by the writes of its access list alone, of which there is at most one (R49, R58, R59). -/
def Obligations.StepWritesOnlyItsWrites : Prop :=
  ∀ s : State, ∃ t, step s = .next t ∧ t.mem = s.mem.applyWrites (busAccesses s) ∧
    ((busAccesses s).filter Access.isWrite).length ≤ 1

/-! ## Reset, Load, Run -/

/-- Reset zeroes A and X, sets SP to 0xFD and P to Interrupt-Disable and Break2, sets PC from the vector, Running, ABORT empty, from any state;
Y and memory are not written (R231 to R234; RUN and ABORT are decision D5). -/
def Obligations.ResetSetsEveryRegisterButY : Prop :=
  ∀ s : State,
    s.resetTransaction = { s with
      a := 0x00
      x := 0x00
      sp := 0xFD
      p := ⟨false, false, true, false, false, true, false, false⟩
      pc := s.resetTransaction.pc
      run := .running
      abort := none } ∧
    s.resetTransaction.y = s.y ∧ s.resetTransaction.mem = s.mem ∧
    s.resetTransaction.pc.toNat = (s.mem.read 0xFFFD).toNat * 256 + (s.mem.read 0xFFFC).toNat

/-- Load copies an image of at most 0x7FFC bytes to 0x8000 upward and the base as the little-endian vector to 0xFFFC, writes nothing else, and
a Reset then starts at 0x8000; a longer image is refused (R235, R236, R237; the limit and the registers by decision D10, log 12). -/
def Obligations.LoadPlacesImageAndVector : Prop :=
  ∀ (s : State) (image : List Byte), s.mem.wf = true →
    (image.length ≤ 0x7FFC → ∃ m, load image s = .next (s.setMem m) ∧
      (∀ (k : Nat) (b : Byte), image[k]? = some b → m.read (0x8000 + BitVec.ofNat 16 k) = b) ∧
      m.read 0xFFFC = 0x00 ∧ m.read 0xFFFD = 0x80 ∧
      (∀ a : Word, (a.toNat < 0x8000 ∨ 0x8000 + image.length ≤ a.toNat) → a ≠ 0xFFFC → a ≠ 0xFFFD →
        m.read a = s.mem.read a) ∧
      (s.setMem m).resetTransaction.pc = 0x8000) ∧
    (0x7FFC < image.length → load image s = .refused .imageTooLong)

/-- Before the first Reset no step runs, whatever the open power-on values are (R31, R230; decisions D5, D8). -/
def Obligations.PowerOnCannotStep : Prop :=
  ∀ (a x y : Byte) (pc : Word) (m : Memory),
    step (State.powerOn a x y pc m) = .next (State.powerOn a x y pc m) ∧ (State.powerOn a x y pc m).run = .halted ∧
      (State.powerOn a x y pc m).sp = 0xFD ∧ (State.powerOn a x y pc m).p.toByte = 0x24

/-- The host changes registers by Reset, Step and Run only: Load, raw access and inspection write at most memory, inspection and raw reads
nothing (R35, R50, R235). -/
def Obligations.OnlyResetAndStepsChangeRegisters : Prop :=
  ∀ (tr : Transaction) (s t : State), perform tr s = .next t → tr ≠ .reset → tr ≠ .step → (∀ fuel, tr ≠ .run fuel) →
    t = s.setMem t.mem ∧ (∀ a v, tr = .rawWrite a v → s.mem.wf = true → rawRead t a = v ∧ ∀ b, b ≠ a → rawRead t b = rawRead s b) ∧
      (tr = .inspect ∨ (∃ a, tr = .rawRead a) → t = s)

/-- Run is Step repeated until RUN is not Running: its first step is Step, and running on from where it was left is one run (R89; the bound on
its steps is the model's argument, log 13). -/
def Obligations.RunIsStepsInSequence : Prop :=
  ∀ (s : State) (m n : Nat), ∃ t, runSteps m s = .next t ∧ runSteps (m + n) s = runSteps n t ∧
    (s.run = .running → runSteps 1 s = step s)

/-- R32: a run that ends Aborted is never a successful run, and its end is reported as a fault that carries ABORT. -/
def Obligations.AbortedRunIsNeverSuccessful : Prop :=
  ∀ s t t' : State, RunFailsIn s t → ¬ RunSucceedsIn s t' ∧ runReport t = .fault (.aborted t.abort)
end

