-- ==== Sys2Proof/Laws/State.lean ====
section
/-! SUPPORT. One lemma per field per update of State, true by rfl, so that no later proof unfolds a record update. -/

namespace Sys2Proof.Machine

variable (s : State)

/-! ### setA -/

@[simp] theorem setA_a (v : Byte) : (s.setA v).a = v := rfl
@[simp] theorem setA_x (v : Byte) : (s.setA v).x = s.x := rfl
@[simp] theorem setA_y (v : Byte) : (s.setA v).y = s.y := rfl
@[simp] theorem setA_sp (v : Byte) : (s.setA v).sp = s.sp := rfl
@[simp] theorem setA_pc (v : Byte) : (s.setA v).pc = s.pc := rfl
@[simp] theorem setA_p (v : Byte) : (s.setA v).p = s.p := rfl
@[simp] theorem setA_run (v : Byte) : (s.setA v).run = s.run := rfl
@[simp] theorem setA_abort (v : Byte) : (s.setA v).abort = s.abort := rfl
@[simp] theorem setA_mem (v : Byte) : (s.setA v).mem = s.mem := rfl

/-! ### setX -/

@[simp] theorem setX_a (v : Byte) : (s.setX v).a = s.a := rfl
@[simp] theorem setX_x (v : Byte) : (s.setX v).x = v := rfl
@[simp] theorem setX_y (v : Byte) : (s.setX v).y = s.y := rfl
@[simp] theorem setX_sp (v : Byte) : (s.setX v).sp = s.sp := rfl
@[simp] theorem setX_pc (v : Byte) : (s.setX v).pc = s.pc := rfl
@[simp] theorem setX_p (v : Byte) : (s.setX v).p = s.p := rfl
@[simp] theorem setX_run (v : Byte) : (s.setX v).run = s.run := rfl
@[simp] theorem setX_abort (v : Byte) : (s.setX v).abort = s.abort := rfl
@[simp] theorem setX_mem (v : Byte) : (s.setX v).mem = s.mem := rfl

/-! ### setY -/

@[simp] theorem setY_a (v : Byte) : (s.setY v).a = s.a := rfl
@[simp] theorem setY_x (v : Byte) : (s.setY v).x = s.x := rfl
@[simp] theorem setY_y (v : Byte) : (s.setY v).y = v := rfl
@[simp] theorem setY_sp (v : Byte) : (s.setY v).sp = s.sp := rfl
@[simp] theorem setY_pc (v : Byte) : (s.setY v).pc = s.pc := rfl
@[simp] theorem setY_p (v : Byte) : (s.setY v).p = s.p := rfl
@[simp] theorem setY_run (v : Byte) : (s.setY v).run = s.run := rfl
@[simp] theorem setY_abort (v : Byte) : (s.setY v).abort = s.abort := rfl
@[simp] theorem setY_mem (v : Byte) : (s.setY v).mem = s.mem := rfl

/-! ### setPc -/

@[simp] theorem setPc_a (t : Word) : (s.setPc t).a = s.a := rfl
@[simp] theorem setPc_x (t : Word) : (s.setPc t).x = s.x := rfl
@[simp] theorem setPc_y (t : Word) : (s.setPc t).y = s.y := rfl
@[simp] theorem setPc_sp (t : Word) : (s.setPc t).sp = s.sp := rfl
@[simp] theorem setPc_pc (t : Word) : (s.setPc t).pc = t := rfl
@[simp] theorem setPc_p (t : Word) : (s.setPc t).p = s.p := rfl
@[simp] theorem setPc_run (t : Word) : (s.setPc t).run = s.run := rfl
@[simp] theorem setPc_abort (t : Word) : (s.setPc t).abort = s.abort := rfl
@[simp] theorem setPc_mem (t : Word) : (s.setPc t).mem = s.mem := rfl

/-! ### setP -/

@[simp] theorem setP_a (f : Flags) : (s.setP f).a = s.a := rfl
@[simp] theorem setP_x (f : Flags) : (s.setP f).x = s.x := rfl
@[simp] theorem setP_y (f : Flags) : (s.setP f).y = s.y := rfl
@[simp] theorem setP_sp (f : Flags) : (s.setP f).sp = s.sp := rfl
@[simp] theorem setP_pc (f : Flags) : (s.setP f).pc = s.pc := rfl
@[simp] theorem setP_p (f : Flags) : (s.setP f).p = f := rfl
@[simp] theorem setP_run (f : Flags) : (s.setP f).run = s.run := rfl
@[simp] theorem setP_abort (f : Flags) : (s.setP f).abort = s.abort := rfl
@[simp] theorem setP_mem (f : Flags) : (s.setP f).mem = s.mem := rfl

/-! ### setMem -/

@[simp] theorem setMem_a (m : Memory) : (s.setMem m).a = s.a := rfl
@[simp] theorem setMem_x (m : Memory) : (s.setMem m).x = s.x := rfl
@[simp] theorem setMem_y (m : Memory) : (s.setMem m).y = s.y := rfl
@[simp] theorem setMem_sp (m : Memory) : (s.setMem m).sp = s.sp := rfl
@[simp] theorem setMem_pc (m : Memory) : (s.setMem m).pc = s.pc := rfl
@[simp] theorem setMem_p (m : Memory) : (s.setMem m).p = s.p := rfl
@[simp] theorem setMem_run (m : Memory) : (s.setMem m).run = s.run := rfl
@[simp] theorem setMem_abort (m : Memory) : (s.setMem m).abort = s.abort := rfl
@[simp] theorem setMem_mem (m : Memory) : (s.setMem m).mem = m := rfl

/-! ### memWrite -/

@[simp] theorem memWrite_a (ad : Word) (v : Byte) : (s.memWrite ad v).a = s.a := rfl
@[simp] theorem memWrite_x (ad : Word) (v : Byte) : (s.memWrite ad v).x = s.x := rfl
@[simp] theorem memWrite_y (ad : Word) (v : Byte) : (s.memWrite ad v).y = s.y := rfl
@[simp] theorem memWrite_sp (ad : Word) (v : Byte) : (s.memWrite ad v).sp = s.sp := rfl
@[simp] theorem memWrite_pc (ad : Word) (v : Byte) : (s.memWrite ad v).pc = s.pc := rfl
@[simp] theorem memWrite_p (ad : Word) (v : Byte) : (s.memWrite ad v).p = s.p := rfl
@[simp] theorem memWrite_run (ad : Word) (v : Byte) : (s.memWrite ad v).run = s.run := rfl
@[simp] theorem memWrite_abort (ad : Word) (v : Byte) : (s.memWrite ad v).abort = s.abort := rfl
@[simp] theorem memWrite_mem (ad : Word) (v : Byte) : (s.memWrite ad v).mem = s.mem.write ad v := rfl

/-! ### preAdvance -/

@[simp] theorem preAdvance_a : s.preAdvance.a = s.a := rfl
@[simp] theorem preAdvance_x : s.preAdvance.x = s.x := rfl
@[simp] theorem preAdvance_y : s.preAdvance.y = s.y := rfl
@[simp] theorem preAdvance_sp : s.preAdvance.sp = s.sp := rfl
@[simp] theorem preAdvance_pc : s.preAdvance.pc = s.pc + 1 := rfl
@[simp] theorem preAdvance_p : s.preAdvance.p = s.p := rfl
@[simp] theorem preAdvance_run : s.preAdvance.run = s.run := rfl
@[simp] theorem preAdvance_abort : s.preAdvance.abort = s.abort := rfl
@[simp] theorem preAdvance_mem : s.preAdvance.mem = s.mem := rfl

/-! ### raise -/

@[simp] theorem raise_a (k : AbortKind) (op : Byte) (ad : Word) : (s.raise k op ad).a = s.a := rfl
@[simp] theorem raise_x (k : AbortKind) (op : Byte) (ad : Word) : (s.raise k op ad).x = s.x := rfl
@[simp] theorem raise_y (k : AbortKind) (op : Byte) (ad : Word) : (s.raise k op ad).y = s.y := rfl
@[simp] theorem raise_sp (k : AbortKind) (op : Byte) (ad : Word) : (s.raise k op ad).sp = s.sp := rfl
@[simp] theorem raise_pc (k : AbortKind) (op : Byte) (ad : Word) : (s.raise k op ad).pc = s.pc := rfl
@[simp] theorem raise_p (k : AbortKind) (op : Byte) (ad : Word) : (s.raise k op ad).p = s.p := rfl
@[simp] theorem raise_run (k : AbortKind) (op : Byte) (ad : Word) : (s.raise k op ad).run = .aborted := rfl
@[simp] theorem raise_abort (k : AbortKind) (op : Byte) (ad : Word) : (s.raise k op ad).abort = some ⟨k, op, ad⟩ := rfl
@[simp] theorem raise_mem (k : AbortKind) (op : Byte) (ad : Word) : (s.raise k op ad).mem = s.mem := rfl

/-! ### halt -/

@[simp] theorem halt_a : s.halt.a = s.a := rfl
@[simp] theorem halt_x : s.halt.x = s.x := rfl
@[simp] theorem halt_y : s.halt.y = s.y := rfl
@[simp] theorem halt_sp : s.halt.sp = s.sp := rfl
@[simp] theorem halt_pc : s.halt.pc = s.pc := rfl
@[simp] theorem halt_p : s.halt.p = s.p := rfl
@[simp] theorem halt_run : s.halt.run = .halted := rfl
@[simp] theorem halt_abort : s.halt.abort = s.abort := rfl
@[simp] theorem halt_mem : s.halt.mem = s.mem := rfl

/-! ### setZN -/

@[simp] theorem setZN_a (v : Byte) : (s.setZN v).a = s.a := rfl
@[simp] theorem setZN_x (v : Byte) : (s.setZN v).x = s.x := rfl
@[simp] theorem setZN_y (v : Byte) : (s.setZN v).y = s.y := rfl
@[simp] theorem setZN_sp (v : Byte) : (s.setZN v).sp = s.sp := rfl
@[simp] theorem setZN_pc (v : Byte) : (s.setZN v).pc = s.pc := rfl
@[simp] theorem setZN_p (v : Byte) : (s.setZN v).p = s.p.setZN v := rfl
@[simp] theorem setZN_run (v : Byte) : (s.setZN v).run = s.run := rfl
@[simp] theorem setZN_abort (v : Byte) : (s.setZN v).abort = s.abort := rfl
@[simp] theorem setZN_mem (v : Byte) : (s.setZN v).mem = s.mem := rfl

/-! ### unknownOpcode -/

@[simp] theorem unknownOpcode_a : s.unknownOpcode.a = s.a := rfl
@[simp] theorem unknownOpcode_x : s.unknownOpcode.x = s.x := rfl
@[simp] theorem unknownOpcode_y : s.unknownOpcode.y = s.y := rfl
@[simp] theorem unknownOpcode_sp : s.unknownOpcode.sp = s.sp := rfl
@[simp] theorem unknownOpcode_pc : s.unknownOpcode.pc = s.pc + 1 := rfl
@[simp] theorem unknownOpcode_p : s.unknownOpcode.p = s.p := rfl
@[simp] theorem unknownOpcode_run : s.unknownOpcode.run = .aborted := rfl
@[simp] theorem unknownOpcode_abort : s.unknownOpcode.abort = some ⟨.unknownOpcode, s.memRead s.pc, s.pc⟩ := rfl
@[simp] theorem unknownOpcode_mem : s.unknownOpcode.mem = s.mem := rfl

/-! ### resetTransaction -/

@[simp] theorem resetTransaction_a : s.resetTransaction.a = 0x00 := rfl
@[simp] theorem resetTransaction_x : s.resetTransaction.x = 0x00 := rfl
@[simp] theorem resetTransaction_y : s.resetTransaction.y = s.y := rfl
@[simp] theorem resetTransaction_sp : s.resetTransaction.sp = Config.spReset := rfl
@[simp] theorem resetTransaction_pc : s.resetTransaction.pc = hiLo (s.memRead (Config.resetVector + 1)) (s.memRead Config.resetVector) := rfl
@[simp] theorem resetTransaction_p : s.resetTransaction.p = Flags.reset := rfl
@[simp] theorem resetTransaction_run : s.resetTransaction.run = .running := rfl
@[simp] theorem resetTransaction_abort : s.resetTransaction.abort = none := rfl
@[simp] theorem resetTransaction_mem : s.resetTransaction.mem = s.mem := rfl

/-! ### withFetchWord -/

@[simp] theorem withFetchWord_a (nbits w : Nat) : (s.withFetchWord nbits w).a = s.a := rfl
@[simp] theorem withFetchWord_x (nbits w : Nat) : (s.withFetchWord nbits w).x = s.x := rfl
@[simp] theorem withFetchWord_y (nbits w : Nat) : (s.withFetchWord nbits w).y = s.y := rfl
@[simp] theorem withFetchWord_sp (nbits w : Nat) : (s.withFetchWord nbits w).sp = s.sp := rfl
@[simp] theorem withFetchWord_pc (nbits w : Nat) : (s.withFetchWord nbits w).pc = s.pc := rfl
@[simp] theorem withFetchWord_p (nbits w : Nat) : (s.withFetchWord nbits w).p = s.p := rfl
@[simp] theorem withFetchWord_run (nbits w : Nat) : (s.withFetchWord nbits w).run = .running := rfl
@[simp] theorem withFetchWord_abort (nbits w : Nat) : (s.withFetchWord nbits w).abort = s.abort := rfl
@[simp] theorem withFetchWord_mem (nbits w : Nat) : (s.withFetchWord nbits w).mem = s.mem.writeBytes s.pc [tableByte nbits w 0, tableByte nbits w 1, tableByte nbits w 2] := rfl

/-! ### autoAdvance: everything but PC is as it was -/

@[simp] theorem autoAdvance_a (b : Word) (n : Nat) : (s.autoAdvance b n).a = s.a := by
  unfold State.autoAdvance; split <;> rfl
@[simp] theorem autoAdvance_x (b : Word) (n : Nat) : (s.autoAdvance b n).x = s.x := by
  unfold State.autoAdvance; split <;> rfl
@[simp] theorem autoAdvance_y (b : Word) (n : Nat) : (s.autoAdvance b n).y = s.y := by
  unfold State.autoAdvance; split <;> rfl
@[simp] theorem autoAdvance_sp (b : Word) (n : Nat) : (s.autoAdvance b n).sp = s.sp := by
  unfold State.autoAdvance; split <;> rfl
@[simp] theorem autoAdvance_p (b : Word) (n : Nat) : (s.autoAdvance b n).p = s.p := by
  unfold State.autoAdvance; split <;> rfl
@[simp] theorem autoAdvance_run (b : Word) (n : Nat) : (s.autoAdvance b n).run = s.run := by
  unfold State.autoAdvance; split <;> rfl
@[simp] theorem autoAdvance_abort (b : Word) (n : Nat) : (s.autoAdvance b n).abort = s.abort := by
  unfold State.autoAdvance; split <;> rfl
@[simp] theorem autoAdvance_mem (b : Word) (n : Nat) : (s.autoAdvance b n).mem = s.mem := by
  unfold State.autoAdvance; split <;> rfl

/-- R86, the case that always holds in this block (R92): the handler left PC alone. -/
theorem autoAdvance_pc_of_eq (b : Word) (n : Nat) (h : s.pc = b) :
    (s.autoAdvance b n).pc = s.pc + BitVec.ofNat 16 (n - 1) := by
  simp [State.autoAdvance, h]

/-- R86, the redirected case, which no handler of the block reaches. -/
theorem autoAdvance_pc_of_ne (b : Word) (n : Nat) (h : s.pc ≠ b) : (s.autoAdvance b n).pc = s.pc := by
  simp [State.autoAdvance, h]

/-! ### Reads depend on memory alone -/

@[simp] theorem setA_memRead (v : Byte) (ad : Word) : (s.setA v).memRead ad = s.memRead ad := rfl
@[simp] theorem preAdvance_memRead (ad : Word) : s.preAdvance.memRead ad = s.memRead ad := rfl
theorem memRead_eq (ad : Word) : s.memRead ad = s.mem.read ad := rfl

/-! ### SetZN (R25) -/

variable (f : Flags) (v : Byte)

@[simp] theorem flags_setZN_c : (f.setZN v).c = f.c := rfl
@[simp] theorem flags_setZN_z : (f.setZN v).z = decide (v = 0x00) := rfl
@[simp] theorem flags_setZN_i : (f.setZN v).i = f.i := rfl
@[simp] theorem flags_setZN_d : (f.setZN v).d = f.d := rfl
@[simp] theorem flags_setZN_b : (f.setZN v).b = f.b := rfl
@[simp] theorem flags_setZN_u : (f.setZN v).u = f.u := rfl
@[simp] theorem flags_setZN_v : (f.setZN v).v = f.v := rfl
@[simp] theorem flags_setZN_n : (f.setZN v).n = v.getLsbD 7 := rfl

/-- Reset gives State.reset on the power-on state whose open values the log names (logs 1, 2, 3). -/
theorem reset_eq_resetTransaction (a x : Byte) (pc : Word) :
    State.reset = (State.powerOn a x Config.yPowerOn pc []).resetTransaction := rfl

end Sys2Proof.Machine
end

