-- ==== Sys2Proof/Laws/Memory.lean ====
section
/-! SUPPORT. The laws of memory: every operation keeps the canonical form, reads after writes, canonical memories with equal
reads are equal, and the byte-order helpers. -/

namespace Sys2Proof

/-! ## Byte order (R47) -/

theorem hiLo_getLsbD (hi lo : Byte) (i : Nat) :
    (hiLo hi lo).getLsbD i = if i < 8 then lo.getLsbD i else hi.getLsbD (i - 8) :=
  BitVec.getLsbD_append (x := hi) (y := lo)

@[simp] theorem loByte_hiLo (hi lo : Byte) : loByte (hiLo hi lo) = lo := by
  apply BitVec.eq_of_getLsbD_eq
  intro i h
  rw [loByte, BitVec.getLsbD_setWidth, hiLo_getLsbD]
  simp [h]

@[simp] theorem hiByte_hiLo (hi lo : Byte) : hiByte (hiLo hi lo) = hi := by
  apply BitVec.eq_of_getLsbD_eq
  intro i h
  rw [hiByte, BitVec.getLsbD_extractLsb', hiLo_getLsbD]
  simp [h]

@[simp] theorem hiLo_hiByte_loByte (v : Word) : hiLo (hiByte v) (loByte v) = v := by
  apply BitVec.eq_of_getLsbD_eq
  intro i h
  rw [hiLo_getLsbD, hiByte, loByte, BitVec.getLsbD_setWidth, BitVec.getLsbD_extractLsb']
  by_cases hi : i < 8
  · simp [hi]
  · simp only [hi, if_false, show i - 8 < 8 by omega, show 8 + (i - 8) = i by omega, decide_true, Bool.true_and]

namespace Machine

/-! ## The canonical form -/

theorem Memory.wfFrom_cons (low k : Nat) (v : Byte) (rest : Memory) :
    Memory.wfFrom low ((k, v) :: rest) = true ↔
      low ≤ k ∧ k < Config.memBytes ∧ v ≠ Config.memInit ∧ Memory.wfFrom (k + 1) rest = true := by
  simp [Memory.wfFrom, and_assoc]

theorem Memory.wfFrom_mono {low low' : Nat} (h : low' ≤ low) :
    {m : Memory} → Memory.wfFrom low m = true → Memory.wfFrom low' m = true
  | [], _ => rfl
  | (k, v) :: rest, hm => by
    rw [Memory.wfFrom_cons] at hm ⊢
    exact ⟨h.trans hm.1, hm.2⟩

theorem Memory.lookup_below {low a : Nat} (ha : a < low) :
    {m : Memory} → Memory.wfFrom low m = true → m.lookup a = Config.memInit
  | [], _ => rfl
  | (k, v) :: rest, hm => by
    rw [Memory.wfFrom_cons] at hm
    have hk : k ≠ a := by omega
    simp only [Memory.lookup, hk, if_false]
    exact Memory.lookup_below (by omega) hm.2.2.2

theorem Memory.insert_wfFrom {low a : Nat} (v : Byte) (hl : low ≤ a) (ha : a < Config.memBytes) :
    {m : Memory} → Memory.wfFrom low m = true → Memory.wfFrom low (m.insert a v) = true
  | [], _ => by
    by_cases hv : v = Config.memInit
    · simp [Memory.insert, hv, Memory.wfFrom]
    · simp [Memory.insert, hv, Memory.wfFrom, hl, ha]
  | (k, w) :: rest, hm => by
    have h := (Memory.wfFrom_cons ..).1 hm
    unfold Memory.insert
    split
    · split
      · exact hm
      · rename_i h1 h2
        rw [Memory.wfFrom_cons, Memory.wfFrom_cons]
        exact ⟨hl, ha, h2, by omega, h.2⟩
    · split
      · rename_i h1 h2
        subst h2
        split
        · exact Memory.wfFrom_mono (by omega) h.2.2.2
        · rename_i h3
          rw [Memory.wfFrom_cons]
          exact ⟨hl, ha, h3, h.2.2.2⟩
      · rw [Memory.wfFrom_cons]
        exact ⟨h.1, h.2.1, h.2.2.1, Memory.insert_wfFrom v (by omega) ha h.2.2.2⟩

/-- `MemWrite` keeps the canonical form. -/
theorem Memory.write_wf {m : Memory} (h : m.wf = true) (a : Word) (v : Byte) : (m.write a v).wf = true :=
  Memory.insert_wfFrom v (Nat.zero_le _) a.isLt h

/-- Bytes written in a row keep the canonical form. -/
theorem Memory.writeBytes_wf : (bytes : List Byte) → {m : Memory} → m.wf = true → (a : Word) → (m.writeBytes a bytes).wf = true
  | [], _, h, _ => h
  | b :: rest, _, h, a => Memory.writeBytes_wf rest (Memory.write_wf h a b) (a + 1)

/-- A defined 16-bit write keeps the canonical form. -/
theorem Memory.write16_wf {m m' : Memory} (h : m.wf = true) {a v : Word} (hw : m.write16 a v = some m') : m'.wf = true := by
  unfold Memory.write16 at hw
  split at hw
  · cases hw
  · cases hw; exact Memory.write_wf (Memory.write_wf h _ _) _ _

/-- The writes of a list of accesses keep the canonical form. -/
theorem Memory.applyWrites_wf : (l : List Access) → {m : Memory} → m.wf = true → (m.applyWrites l).wf = true
  | [], _, h => h
  | .read _ _ :: rest, _, h => Memory.applyWrites_wf rest h
  | .write a v :: rest, _, h => Memory.applyWrites_wf rest (Memory.write_wf h a v)

/-- Reset memory is canonical. -/
theorem reset_mem_wf : State.reset.mem.wf = true := rfl

/-! ## Reads after writes -/

theorem Memory.lookup_insert_ne {a b : Nat} (v : Byte) (hab : b ≠ a) : (m : Memory) → (m.insert a v).lookup b = m.lookup b
  | [] => by
    unfold Memory.insert
    split
    · rfl
    · simp [Memory.lookup, hab.symm]
  | (k, w) :: rest => by
    unfold Memory.insert
    split
    · split
      · rfl
      · simp [Memory.lookup, hab.symm]
    · split
      · rename_i h; subst h
        split <;> simp [Memory.lookup, hab.symm]
      · simp only [Memory.lookup]
        split
        · rfl
        · exact Memory.lookup_insert_ne v hab rest

theorem Memory.lookup_insert_self {low a : Nat} (v : Byte) :
    {m : Memory} → Memory.wfFrom low m = true → (m.insert a v).lookup a = v
  | [], _ => by
    unfold Memory.insert
    split
    · rename_i h; simp [Memory.lookup, h]
    · simp [Memory.lookup]
  | (k, w) :: rest, hm => by
    have h := (Memory.wfFrom_cons ..).1 hm
    unfold Memory.insert
    split
    · rename_i h1
      split
      · rename_i h2
        rw [h2]; exact Memory.lookup_below h1 (Memory.wfFrom_mono (Nat.le_refl k) ((Memory.wfFrom_cons ..).2 ⟨Nat.le_refl k, h.2⟩))
      · simp [Memory.lookup]
    · split
      · rename_i h1 h2
        subst h2
        split
        · rename_i h3
          rw [h3]; exact Memory.lookup_below (Nat.lt_succ_self _) h.2.2.2
        · simp [Memory.lookup]
      · rename_i h1 h2
        have : k ≠ a := fun e => h2 e.symm
        simp only [Memory.lookup, this, if_false]
        exact Memory.lookup_insert_self v h.2.2.2

/-- A write leaves every other byte alone (R41). -/
theorem Memory.read_write_ne (m : Memory) {a b : Word} (v : Byte) (h : b ≠ a) : (m.write a v).read b = m.read b :=
  Memory.lookup_insert_ne v (fun e => h (BitVec.eq_of_toNat_eq e)) m

/-- A read after a write to the same address gives the byte written (R41). -/
theorem Memory.read_write_self {m : Memory} (hm : m.wf = true) (a : Word) (v : Byte) : (m.write a v).read a = v :=
  Memory.lookup_insert_self v hm

end Machine

end Sys2Proof
end

