-- ==== Sys2Proof/Laws/Exec.lean ====
section
/-! SUPPORT. What the shared operations of a step can answer, and one equation for every instruction: `exec` is the form of its
mnemonic on its operand. Provers cite these instead of unfolding the meanings. -/

namespace Sys2Proof.Machine

/-! ## Handlers, as record updates -/

theorem lda_eq (m : Byte) (s : State) : lda m s = { s with a := m, p := s.p.setZN m } := rfl
theorem ldx_eq (m : Byte) (s : State) : ldx m s = { s with x := m, p := s.p.setZN m } := rfl
theorem ldy_eq (m : Byte) (s : State) : ldy m s = { s with y := m, p := s.p.setZN m } := rfl
theorem adc_eq (m : Byte) (s : State) : adc m s = { s with a := s.a + m, p := s.p.setZN (s.a + m) } := rfl
theorem tax_eq (s : State) : tax s = { s with x := s.a, p := s.p.setZN s.a } := rfl
theorem inx_eq (s : State) : inx s = { s with x := s.x + 1, p := s.p.setZN (s.x + 1) } := rfl
theorem sta_eq (ea : Word) (s : State) : sta ea s = { s with mem := s.mem.write ea s.a } := rfl
theorem stx_eq (ea : Word) (s : State) : stx ea s = { s with mem := s.mem.write ea s.x } := rfl
theorem sty_eq (ea : Word) (s : State) : sty ea s = { s with mem := s.mem.write ea s.y } := rfl

/-! ## The resolver -/

/-- The resolver answers an address unless the mode is Implicit or an absolute mode meets PC = 0xFFFF. -/
theorem resolve_ok_of (s : State) (o : Operand) (hi : o.mode ≠ .implicit) (hw : ¬ (o.mode.isAbsolute = true ∧ s.pc = 0xFFFF)) :
    ∃ ea, s.resolve o = .ok ea := by
  cases o <;> simp_all [State.resolve, State.operand16, Operand.mode, Mode.isAbsolute, Config.read16Top, Except.map]

/-- An absolute mode with PC at 0xFFFF aborts with Read16Window (R205, D6). -/
theorem resolve_window (s : State) (o : Operand) (ha : o.mode.isAbsolute = true) (hp : s.pc = 0xFFFF) :
    s.resolve o = .error .read16Window := by
  cases o <;> simp_all [State.resolve, State.operand16, Operand.mode, Mode.isAbsolute, Config.read16Top, Except.map]

/-- The operand byte is the byte at the effective address. -/
theorem operandByte_of_resolve (s : State) (o : Operand) (ea : Word) (h : s.resolve o = .ok ea) :
    s.operandByte o = .ok (s.dataByte o ea) := by
  simp [State.operandByte, h, Except.map]

theorem operandByte_window (s : State) (o : Operand) (ha : o.mode.isAbsolute = true) (hp : s.pc = 0xFFFF) :
    s.operandByte o = .error .read16Window := by
  simp [State.operandByte, resolve_window s o ha hp, Except.map]

/-- The resolver reads registers and memory alone, not P, SP, RUN or ABORT. -/
theorem resolve_congr {s t : State} (o : Operand) (hx : t.x = s.x) (hy : t.y = s.y) (hp : t.pc = s.pc) (hm : t.mem = s.mem) :
    t.resolve o = s.resolve o := by
  cases o <;> simp [State.resolve, State.operand16, hx, hy, hp, hm]

theorem dataByte_congr {s t : State} (o : Operand) (hm : t.mem = s.mem) : t.dataByte o = s.dataByte o := by
  funext ea
  cases o <;> simp [State.dataByte, State.memRead, hm]

theorem operandByte_congr {s t : State} (o : Operand) (hx : t.x = s.x) (hy : t.y = s.y) (hp : t.pc = s.pc) (hm : t.mem = s.mem) :
    t.operandByte o = s.operandByte o := by
  simp [State.operandByte, resolve_congr o hx hy hp hm, dataByte_congr o hm]

/-! ## PC arithmetic -/

/-- The two advances add up to the length (R87). -/
theorem pc_two_advances (pc : Word) (n : Nat) : pc + 1 + BitVec.ofNat 16 (1 + n - 1) = pc + BitVec.ofNat 16 (1 + n) := by
  rw [Nat.add_sub_cancel_left, BitVec.add_assoc]
  congr 1
  rw [BitVec.ofNat_add]
  rfl

theorem preAdvance_at_top (s : State) : s.preAdvance.pc = 0xFFFF ↔ s.pc = 0xFFFE := by
  simp only [preAdvance_pc]
  constructor <;> intro h <;> bv_omega

/-! ## The three forms -/

/-- A form that reads an operand byte, with a handler that leaves PC alone (R92): the handler's state, PC past the instruction. -/
theorem readForm_of_ok {op : Byte} {o : Operand} {handler : Byte → State → State} {s : State} {m : Byte}
    (hpc : (handler m s.preAdvance).pc = s.preAdvance.pc) (h : s.preAdvance.operandByte o = .ok m) :
    readForm op o handler s =
      .next ((handler m s.preAdvance).setPc (s.pc + BitVec.ofNat 16 (1 + o.mode.operandBytes))) := by
  simp only [readForm, h, State.autoAdvance, hpc, if_true, preAdvance_pc, pc_two_advances]

theorem readForm_of_error {op : Byte} {o : Operand} {handler : Byte → State → State} {s : State} {k : AbortKind}
    (h : s.preAdvance.operandByte o = .error k) : readForm op o handler s = .next (s.preAdvance.raise k op s.pc) := by
  simp only [readForm, h]

/-- The same for a form that is given the effective address. -/
theorem addressForm_of_ok {op : Byte} {o : Operand} {handler : Word → State → State} {s : State} {ea : Word}
    (hpc : (handler ea s.preAdvance).pc = s.preAdvance.pc) (h : s.preAdvance.resolve o = .ok ea) :
    addressForm op o handler s =
      .next ((handler ea s.preAdvance).setPc (s.pc + BitVec.ofNat 16 (1 + o.mode.operandBytes))) := by
  simp only [addressForm, h, State.autoAdvance, hpc, if_true, preAdvance_pc, pc_two_advances]

theorem addressForm_of_error {op : Byte} {o : Operand} {handler : Word → State → State} {s : State} {k : AbortKind}
    (h : s.preAdvance.resolve o = .error k) : addressForm op o handler s = .next (s.preAdvance.raise k op s.pc) := by
  simp only [addressForm, h]

theorem implicitForm_of_pc {handler : State → State} {s : State} (hpc : (handler s.preAdvance).pc = s.preAdvance.pc) :
    implicitForm handler s = .next ((handler s.preAdvance).setPc (s.pc + 1)) := by
  simp [implicitForm, State.autoAdvance, hpc]

/-! ## One equation for every instruction -/

/-- The meaning that a mnemonic gives an operand (R65, R96). -/
def formOf (m : Mnemonic) (op : Byte) (o : Operand) (s : State) : Result :=
  match m with
  | .lda => readForm op o lda s
  | .ldx => readForm op o ldx s
  | .ldy => readForm op o ldy s
  | .adc => readForm op o adc s
  | .sta => addressForm op o sta s
  | .stx => addressForm op o stx s
  | .sty => addressForm op o sty s
  | .tax => implicitForm tax s
  | .inx => implicitForm inx s
  | .brk => .next s.preAdvance.halt

/-- Dispatch is by mnemonic (R65): each arm is its mnemonic's form on its operand, with its encoding's opcode byte. -/
theorem exec_eq_formOf (i : Instr) (s : State) : exec i s = formOf i.mnemonic i.opcode i.operand s := by
  cases i <;> rfl

/-- An instruction has mode Implicit exactly if its handler needs no address (R114). -/
theorem needsAddress_iff (i : Instr) : i.mnemonic.needsAddress = true ↔ i.operand.mode ≠ .implicit := by
  cases i <;> simp [Instr.mnemonic, Instr.operand, Operand.mode, Mnemonic.needsAddress]

/-- Inside the window every absolute form aborts (R205). -/
theorem exec_in_window (i : Instr) (s : State) (h : s.inWindow i = true) :
    exec i s = .next (s.preAdvance.raise .read16Window i.opcode s.pc) := by
  simp only [State.inWindow, Bool.and_eq_true, beq_iff_eq, Instr.mode] at h
  have hp := (preAdvance_at_top s).2 h.2
  have hr := resolve_window s.preAdvance i.operand h.1 hp
  have hb := operandByte_window s.preAdvance i.operand h.1 hp
  have hn : i.mnemonic.needsAddress = true := (needsAddress_iff i).2 (by intro e; simp [e, Mode.isAbsolute] at h)
  rw [exec_eq_formOf]
  revert hn
  cases i.mnemonic <;> simp [formOf, Mnemonic.needsAddress, readForm_of_error hb, addressForm_of_error hr]

/-- What the handler of a mnemonic does to the pre-advanced state, given the address and the operand byte. -/
def handled (m : Mnemonic) (ea : Word) (b : Byte) (s : State) : State :=
  match m with
  | .lda => lda b s
  | .ldx => ldx b s
  | .ldy => ldy b s
  | .adc => adc b s
  | .sta => sta ea s
  | .stx => stx ea s
  | .sty => sty ea s
  | .tax => tax s
  | .inx => inx s
  | .brk => s.halt

/-- Outside the window an instruction that needs an address completes: its handler's state, PC past it (R80, R87). -/
theorem exec_of_address (i : Instr) (s : State) (hn : i.mnemonic.needsAddress = true) (hw : s.inWindow i = false) :
    ∃ ea b, s.preAdvance.resolve i.operand = .ok ea ∧ s.preAdvance.operandByte i.operand = .ok b ∧
      exec i s = .next ((handled i.mnemonic ea b s.preAdvance).setPc (s.pc + BitVec.ofNat 16 i.length)) := by
  obtain ⟨ea, hr⟩ := resolve_ok_of s.preAdvance i.operand ((needsAddress_iff i).1 hn)
    (by rw [preAdvance_at_top]; simpa [State.inWindow, Instr.mode] using hw)
  have hb := operandByte_of_resolve _ _ _ hr
  refine ⟨ea, _, hr, hb, ?_⟩
  rw [exec_eq_formOf]
  revert hn
  cases i.mnemonic <;> simp only [formOf, Mnemonic.needsAddress, reduceCtorEq, false_implies, forall_const, handled, Instr.length, Instr.mode]
  all_goals first
    | exact readForm_of_ok rfl hb
    | exact addressForm_of_ok rfl hr

/-- The three instructions of mode Implicit complete always. -/
theorem exec_of_implicit (i : Instr) (s : State) (hn : i.mnemonic.needsAddress = false) :
    exec i s = .next ((handled i.mnemonic 0 0 s.preAdvance).setPc (s.pc + BitVec.ofNat 16 i.length)) := by
  cases i <;> first
    | (simp [Instr.mnemonic, Mnemonic.needsAddress] at hn; done)
    | (simp only [exec, execTax, execInx, Instr.mnemonic, handled]; rw [implicitForm_of_pc rfl]; rfl)
    | rfl

/-- Every instruction answers a next state (R90, R208). -/
theorem exec_next (i : Instr) (s : State) : ∃ t, exec i s = .next t := by
  cases hn : i.mnemonic.needsAddress
  · exact ⟨_, exec_of_implicit i s hn⟩
  · cases hw : s.inWindow i
    · obtain ⟨_, _, _, _, h⟩ := exec_of_address i s hn hw
      exact ⟨_, h⟩
    · exact ⟨_, exec_in_window i s hw⟩

/-! ## The step -/

theorem step_of_decoded {s : State} {i : Instr} (hr : s.run = .running) (h : s.fetchInstr = some i) : step s = exec i s := by
  simp [step, hr, h]

theorem step_of_undecoded {s : State} (hr : s.run = .running) (h : s.fetchInstr = none) : step s = .next s.unknownOpcode := by
  simp [step, hr, h]

theorem step_of_stopped {s : State} (hr : s.run ≠ .running) : step s = .next s := by
  unfold step
  cases h : s.run <;> simp_all

/-- Everything a step can do: run the decoded instruction, abort on a byte without a row, or nothing (R80, R91). -/
theorem step_cases (s : State) :
    (∃ i, s.run = .running ∧ s.fetchInstr = some i ∧ step s = exec i s) ∨
    (s.run = .running ∧ s.fetchInstr = none ∧ step s = .next s.unknownOpcode) ∨
    (s.run ≠ .running ∧ step s = .next s) := by
  by_cases hr : s.run = .running
  · cases h : s.fetchInstr with
    | none => exact .inr (.inl ⟨hr, rfl, step_of_undecoded hr h⟩)
    | some i => exact .inl ⟨i, hr, rfl, step_of_decoded hr h⟩
  · exact .inr (.inr ⟨hr, step_of_stopped hr⟩)

end Sys2Proof.Machine
end

