-- ==== Sys2Proof/Laws/PerInstr.lean ====
section
/-! SUPPORT. Facts about each instruction as syntax, one lemma per constructor. -/

namespace Sys2Proof.Laws.Encoding

/-- The encoding of an instruction: as many bytes as its length, its opcode byte first, a table row for that byte with its mnemonic,
mode and length, and the check WellFormed.lean asks of it (R60, R63, R64, R66). -/
def Statement (i : Instr) : Prop :=
  (encode i).length = i.length ∧ (encode i).head? = some i.opcode ∧
    (opcodeLookup i.opcode).map (fun d => (d.mnemonic, d.mode, d.length)) = some (i.mnemonic, i.mode, i.length) ∧
    i.wf = true

theorem brk : Statement (.brk) := ⟨rfl, rfl, rfl, rfl⟩
theorem adcIndX (d8 : Byte) : Statement (.adcIndX d8) := ⟨rfl, rfl, rfl, rfl⟩
theorem adcZp (d8 : Byte) : Statement (.adcZp d8) := ⟨rfl, rfl, rfl, rfl⟩
theorem adcImm (d8 : Byte) : Statement (.adcImm d8) := ⟨rfl, rfl, rfl, rfl⟩
theorem adcAbs (a16 : Word) : Statement (.adcAbs a16) := ⟨rfl, rfl, rfl, rfl⟩
theorem adcIndY (d8 : Byte) : Statement (.adcIndY d8) := ⟨rfl, rfl, rfl, rfl⟩
theorem adcZpX (d8 : Byte) : Statement (.adcZpX d8) := ⟨rfl, rfl, rfl, rfl⟩
theorem adcAbsY (a16 : Word) : Statement (.adcAbsY a16) := ⟨rfl, rfl, rfl, rfl⟩
theorem adcAbsX (a16 : Word) : Statement (.adcAbsX a16) := ⟨rfl, rfl, rfl, rfl⟩
theorem staIndX (d8 : Byte) : Statement (.staIndX d8) := ⟨rfl, rfl, rfl, rfl⟩
theorem styZp (d8 : Byte) : Statement (.styZp d8) := ⟨rfl, rfl, rfl, rfl⟩
theorem staZp (d8 : Byte) : Statement (.staZp d8) := ⟨rfl, rfl, rfl, rfl⟩
theorem stxZp (d8 : Byte) : Statement (.stxZp d8) := ⟨rfl, rfl, rfl, rfl⟩
theorem styAbs (a16 : Word) : Statement (.styAbs a16) := ⟨rfl, rfl, rfl, rfl⟩
theorem staAbs (a16 : Word) : Statement (.staAbs a16) := ⟨rfl, rfl, rfl, rfl⟩
theorem stxAbs (a16 : Word) : Statement (.stxAbs a16) := ⟨rfl, rfl, rfl, rfl⟩
theorem staIndY (d8 : Byte) : Statement (.staIndY d8) := ⟨rfl, rfl, rfl, rfl⟩
theorem styZpX (d8 : Byte) : Statement (.styZpX d8) := ⟨rfl, rfl, rfl, rfl⟩
theorem staZpX (d8 : Byte) : Statement (.staZpX d8) := ⟨rfl, rfl, rfl, rfl⟩
theorem stxZpY (d8 : Byte) : Statement (.stxZpY d8) := ⟨rfl, rfl, rfl, rfl⟩
theorem staAbsY (a16 : Word) : Statement (.staAbsY a16) := ⟨rfl, rfl, rfl, rfl⟩
theorem staAbsX (a16 : Word) : Statement (.staAbsX a16) := ⟨rfl, rfl, rfl, rfl⟩
theorem ldyImm (d8 : Byte) : Statement (.ldyImm d8) := ⟨rfl, rfl, rfl, rfl⟩
theorem ldaIndX (d8 : Byte) : Statement (.ldaIndX d8) := ⟨rfl, rfl, rfl, rfl⟩
theorem ldxImm (d8 : Byte) : Statement (.ldxImm d8) := ⟨rfl, rfl, rfl, rfl⟩
theorem ldyZp (d8 : Byte) : Statement (.ldyZp d8) := ⟨rfl, rfl, rfl, rfl⟩
theorem ldaZp (d8 : Byte) : Statement (.ldaZp d8) := ⟨rfl, rfl, rfl, rfl⟩
theorem ldxZp (d8 : Byte) : Statement (.ldxZp d8) := ⟨rfl, rfl, rfl, rfl⟩
theorem ldaImm (d8 : Byte) : Statement (.ldaImm d8) := ⟨rfl, rfl, rfl, rfl⟩
theorem tax : Statement (.tax) := ⟨rfl, rfl, rfl, rfl⟩
theorem ldyAbs (a16 : Word) : Statement (.ldyAbs a16) := ⟨rfl, rfl, rfl, rfl⟩
theorem ldaAbs (a16 : Word) : Statement (.ldaAbs a16) := ⟨rfl, rfl, rfl, rfl⟩
theorem ldxAbs (a16 : Word) : Statement (.ldxAbs a16) := ⟨rfl, rfl, rfl, rfl⟩
theorem ldaIndY (d8 : Byte) : Statement (.ldaIndY d8) := ⟨rfl, rfl, rfl, rfl⟩
theorem ldyZpX (d8 : Byte) : Statement (.ldyZpX d8) := ⟨rfl, rfl, rfl, rfl⟩
theorem ldaZpX (d8 : Byte) : Statement (.ldaZpX d8) := ⟨rfl, rfl, rfl, rfl⟩
theorem ldxZpY (d8 : Byte) : Statement (.ldxZpY d8) := ⟨rfl, rfl, rfl, rfl⟩
theorem ldaAbsY (a16 : Word) : Statement (.ldaAbsY a16) := ⟨rfl, rfl, rfl, rfl⟩
theorem ldyAbsX (a16 : Word) : Statement (.ldyAbsX a16) := ⟨rfl, rfl, rfl, rfl⟩
theorem ldaAbsX (a16 : Word) : Statement (.ldaAbsX a16) := ⟨rfl, rfl, rfl, rfl⟩
theorem ldxAbsY (a16 : Word) : Statement (.ldxAbsY a16) := ⟨rfl, rfl, rfl, rfl⟩
theorem inx : Statement (.inx) := ⟨rfl, rfl, rfl, rfl⟩

end Sys2Proof.Laws.Encoding
end

