-- ==== Sys2Proof/Tests/Slice0.lean ====
section
/-! SUPPORT. The model's own tests. Expected values come from spec/95_test_vectors.md (vector numbers stand in the names), from
spec/30_encoding.md R66 for the decode tests, and from the rules named in comments. The last part holds a witness for every
obligation that has hypotheses. -/

namespace Sys2Proof.Tests

open Sys2Proof.Machine Sys2Proof.Machine.Stated

/-! ## Well-formedness refuses ill-formed terms -/

theorem test_length_of_mode_refused : Descriptor.lengthMatches ⟨.lda, .absolute, 2, 4⟩ = false := by decide
theorem test_implicit_for_address_handler_refused : Descriptor.modeServesHandler ⟨.sta, .implicit, 1, 2⟩ = false := by decide
theorem test_row_refused : Descriptor.wf ⟨.adc, .immediate, 3, 2⟩ = false ∧ Descriptor.wf ⟨.adc, .implicit, 1, 2⟩ = false := by decide
theorem test_row_accepted : Descriptor.wf ⟨.adc, .immediate, 2, 2⟩ = true ∧ Descriptor.wf ⟨.brk, .implicit, 1, 7⟩ = true := by decide
theorem test_image_too_long_refused (image : List Byte) (h : image.length = 0x7FFD) : imageFits image = false := by
  unfold imageFits; rw [h]; rfl
theorem test_longest_image_accepted (image : List Byte) (h : image.length = 0x7FFC) : imageFits image = true := by
  unfold imageFits; rw [h]; rfl

/-- Not canonical: a cell that repeats what it reads as unlisted, a key twice, falling keys, a key outside the space. -/
theorem test_memory_form_refused : Memory.wf [(5, 0x00)] = false ∧ Memory.wf [(5, 0x01), (5, 0x02)] = false ∧
    Memory.wf [(6, 0x01), (5, 0x01)] = false ∧ Memory.wf [(0x10000, 0x01)] = false := by decide
theorem test_memory_form_accepted : Memory.wf [(0, 0x01), (0xFFFF, 0x02)] = true := by decide

/-- Writing back what an unlisted address reads as removes the cell; writes come out sorted whatever their order. -/
theorem test_write_is_canonical :
    ((Memory.write [] 0x0010 0x55).write 0x0010 0x00) = [] ∧
    (((Memory.write [] 0xFFFF 0x01).write 0x0000 0x02).write 0x8000 0x03) = [(0, 0x02), (0x8000, 0x03), (0xFFFF, 0x01)] := by
  decide

/-! ## Decoding: every constructor's word, written out from R66 (format B1: opcode, d8; B2: opcode, lo, hi) -/

theorem test_decode_lda :
    decode [0xA9, 0x05] = .ok (.ldaImm 0x05) [] ∧ decode [0xA5, 0x10] = .ok (.ldaZp 0x10) [] ∧
    decode [0xB5, 0xF0] = .ok (.ldaZpX 0xF0) [] ∧ decode [0xAD, 0x34, 0x12] = .ok (.ldaAbs 0x1234) [] ∧
    decode [0xBD, 0xF0, 0x12] = .ok (.ldaAbsX 0x12F0) [] ∧ decode [0xB9, 0x00, 0x02] = .ok (.ldaAbsY 0x0200) [] ∧
    decode [0xA1, 0x20] = .ok (.ldaIndX 0x20) [] ∧ decode [0xB1, 0x86] = .ok (.ldaIndY 0x86) [] := by decide

theorem test_decode_ldx :
    decode [0xA2, 0xFF] = .ok (.ldxImm 0xFF) [] ∧ decode [0xA6, 0x40] = .ok (.ldxZp 0x40) [] ∧
    decode [0xB6, 0x80] = .ok (.ldxZpY 0x80) [] ∧ decode [0xAE, 0xFC, 0xFF] = .ok (.ldxAbs 0xFFFC) [] ∧
    decode [0xBE, 0x00, 0x20] = .ok (.ldxAbsY 0x2000) [] := by decide

theorem test_decode_ldy :
    decode [0xA0, 0x01] = .ok (.ldyImm 0x01) [] ∧ decode [0xA4, 0x02] = .ok (.ldyZp 0x02) [] ∧
    decode [0xB4, 0x02] = .ok (.ldyZpX 0x02) [] ∧ decode [0xAC, 0x00, 0x02] = .ok (.ldyAbs 0x0200) [] ∧
    decode [0xBC, 0x01, 0x02] = .ok (.ldyAbsX 0x0201) [] := by decide

theorem test_decode_sta :
    decode [0x85, 0x10] = .ok (.staZp 0x10) [] ∧ decode [0x95, 0xF0] = .ok (.staZpX 0xF0) [] ∧
    decode [0x8D, 0x00, 0x02] = .ok (.staAbs 0x0200) [] ∧ decode [0x9D, 0xF0, 0xFF] = .ok (.staAbsX 0xFFF0) [] ∧
    decode [0x99, 0xFE, 0xFF] = .ok (.staAbsY 0xFFFE) [] ∧ decode [0x81, 0x40] = .ok (.staIndX 0x40) [] ∧
    decode [0x91, 0x40] = .ok (.staIndY 0x40) [] := by decide

theorem test_decode_stx_sty :
    decode [0x86, 0x01] = .ok (.stxZp 0x01) [] ∧ decode [0x96, 0xFF] = .ok (.stxZpY 0xFF) [] ∧
    decode [0x8E, 0x00, 0x01] = .ok (.stxAbs 0x0100) [] ∧ decode [0x84, 0x7F] = .ok (.styZp 0x7F) [] ∧
    decode [0x94, 0x7F] = .ok (.styZpX 0x7F) [] ∧ decode [0x8C, 0xFF, 0x01] = .ok (.styAbs 0x01FF) [] := by decide

theorem test_decode_adc :
    decode [0x69, 0x03] = .ok (.adcImm 0x03) [] ∧ decode [0x65, 0x10] = .ok (.adcZp 0x10) [] ∧
    decode [0x75, 0xFF] = .ok (.adcZpX 0xFF) [] ∧ decode [0x6D, 0x00, 0x03] = .ok (.adcAbs 0x0300) [] ∧
    decode [0x7D, 0x01, 0x03] = .ok (.adcAbsX 0x0301) [] ∧ decode [0x79, 0x02, 0x03] = .ok (.adcAbsY 0x0302) [] ∧
    decode [0x61, 0x08] = .ok (.adcIndX 0x08) [] ∧ decode [0x71, 0x10] = .ok (.adcIndY 0x10) [] := by decide

theorem test_decode_implicit :
    decode [0xAA, 0xE8] = .ok .tax [0xE8] ∧ decode [0xE8] = .ok .inx [] ∧ decode [0x00] = .ok .brk [] := by decide

/-- Bytes with no row (R69) are rejected by name, and so is a list that ends inside an instruction. -/
theorem test_decode_rejects :
    decode [0xEA, 0xA9] = .unknownOpcode 0xEA ∧ decode [0x4C, 0x00, 0x80] = .unknownOpcode 0x4C ∧
    decode [0x89, 0x01] = .unknownOpcode 0x89 ∧ decode [0xA9] = .truncated [0xA9] ∧ decode [] = .truncated [] := by decide

/-- The host's numbering: byte 0 in bits 7 to 0, byte 1 in bits 15 to 8; bits above `nbits` are 0. -/
theorem test_decodeTableWord :
    decodeTableWord 16 0x05A9 = some (.ldaImm 0x05) ∧ decodeTableWord 24 0x1234AD = some (.ldaAbs 0x1234) ∧
    decodeTableWord 8 0xFFAD = some (.ldaAbs 0x0000) ∧ decodeTableWord 8 0xEA = none := by decide

/-! ## Single steps: the vectors of spec/95_test_vectors.md section 2 -/

/-- The state of a vector before its step: bytes at PC, registers, P as a byte, further memory cells (written first). -/
def pre (pc : Word) (bytes : List Byte) (a x y p : Byte) (cells : List (Word × Byte)) : State where
  a := a
  x := x
  y := y
  sp := 0xFD
  pc := pc
  p := Flags.ofByte p
  run := .running
  abort := none
  mem := Memory.writeBytes (cells.foldl (fun (m : Memory) c => Memory.write m c.1 c.2) []) pc bytes

/-- The step from `s` shows `after`, made the accesses listed, and memory changed by their writes alone. -/
def agrees (s : State) (after : Inspection) (accesses : List Access) : Bool :=
  match step s with
  | .next t => decide (inspect t = after) && decide (busAccesses s = accesses) && decide (t.mem = s.mem.applyWrites accesses)
  | .fault _ => false
  | .refused _ => false

theorem test_V6_lda_imm_top : agrees (pre 0xFFFF [0xA9, 0x42] 0x00 0x00 0x00 0x24 [])
    ⟨0x42, 0x00, 0x00, 0x24, 0x0001, 0xFD, .running, none⟩ [.read 0xFFFF 0xA9, .read 0x0000 0x42] = true := by decide
theorem test_V2_lda_imm_zero : agrees (pre 0x8000 [0xA9, 0x00] 0x77 0x00 0x00 0x24 [])
    ⟨0x00, 0x00, 0x00, 0x26, 0x8002, 0xFD, .running, none⟩ [.read 0x8000 0xA9, .read 0x8001 0x00] = true := by decide
theorem test_V7_lda_zp : agrees (pre 0x8000 [0xA5, 0x10] 0x00 0x00 0x00 0x24 [(0x0010, 0x55)])
    ⟨0x55, 0x00, 0x00, 0x24, 0x8002, 0xFD, .running, none⟩ [.read 0x8000 0xA5, .read 0x8001 0x10, .read 0x0010 0x55] = true := by decide
theorem test_V107_lda_zp_at_FFFE : agrees (pre 0xFFFE [0xA5, 0x10] 0x00 0x00 0x00 0x24 [(0x0010, 0x0C)])
    ⟨0x0C, 0x00, 0x00, 0x24, 0x0000, 0xFD, .running, none⟩ [.read 0xFFFE 0xA5, .read 0xFFFF 0x10, .read 0x0010 0x0C] = true := by decide
theorem test_V8_lda_zpx_wraps : agrees (pre 0x8000 [0xB5, 0xFF] 0x00 0x01 0x00 0x24 [(0x0000, 0xAB), (0x0100, 0xCD)])
    ⟨0xAB, 0x01, 0x00, 0xA4, 0x8002, 0xFD, .running, none⟩ [.read 0x8000 0xB5, .read 0x8001 0xFF, .read 0x0000 0xAB] = true := by decide
theorem test_V29_lda_abs_at_FFFD : agrees (pre 0xFFFD [0xAD, 0x10, 0x00] 0x00 0x00 0x00 0x24 [(0x0010, 0x66)])
    ⟨0x66, 0x00, 0x00, 0x24, 0x0000, 0xFD, .running, none⟩ [.read 0xFFFD 0xAD, .read 0xFFFE 0x10, .read 0xFFFF 0x00, .read 0x0010 0x66] = true := by decide
theorem test_V12_lda_absx_wraps : agrees (pre 0x8000 [0xBD, 0xFF, 0xFF] 0x00 0x02 0x00 0x24 [(0x0001, 0x5A)])
    ⟨0x5A, 0x02, 0x00, 0x24, 0x8003, 0xFD, .running, none⟩ [.read 0x8000 0xBD, .read 0x8001 0xFF, .read 0x8002 0xFF, .read 0x0001 0x5A] = true := by decide
theorem test_V13_lda_absy_wraps : agrees (pre 0x8000 [0xB9, 0xF0, 0xFF] 0x00 0x00 0x20 0x24 [(0x0010, 0x80)])
    ⟨0x80, 0x00, 0x20, 0xA4, 0x8003, 0xFD, .running, none⟩ [.read 0x8000 0xB9, .read 0x8001 0xF0, .read 0x8002 0xFF, .read 0x0010 0x80] = true := by decide
theorem test_V15_lda_indx_wraps : agrees (pre 0x8000 [0xA1, 0xFE] 0x00 0x01 0x00 0x24 [(0x0000, 0x04), (0x00FF, 0x00), (0x0100, 0x05), (0x0400, 0x21), (0x0500, 0x22)])
    ⟨0x21, 0x01, 0x00, 0x24, 0x8002, 0xFD, .running, none⟩ [.read 0x8000 0xA1, .read 0x8001 0xFE, .read 0x00FF 0x00, .read 0x0000 0x04, .read 0x0400 0x21] = true := by decide
theorem test_V17_lda_indy_wraps : agrees (pre 0x8000 [0xB1, 0xFF] 0x00 0x00 0x01 0x24 [(0x0000, 0xFF), (0x00FF, 0xFF), (0x0100, 0x12)])
    ⟨0xFF, 0x00, 0x01, 0xA4, 0x8002, 0xFD, .running, none⟩ [.read 0x8000 0xB1, .read 0x8001 0xFF, .read 0x00FF 0xFF, .read 0x0000 0xFF, .read 0x0000 0xFF] = true := by decide
theorem test_V18_ldx_imm : agrees (pre 0x8000 [0xA2, 0xFF] 0x00 0x00 0x00 0x24 [])
    ⟨0x00, 0xFF, 0x00, 0xA4, 0x8002, 0xFD, .running, none⟩ [.read 0x8000 0xA2, .read 0x8001 0xFF] = true := by decide
theorem test_V21_ldx_zp : agrees (pre 0x8000 [0xA6, 0x40] 0x11 0x00 0x22 0x24 [(0x0040, 0x33)])
    ⟨0x11, 0x33, 0x22, 0x24, 0x8002, 0xFD, .running, none⟩ [.read 0x8000 0xA6, .read 0x8001 0x40, .read 0x0040 0x33] = true := by decide
theorem test_V19_ldx_zpy : agrees (pre 0x8000 [0xB6, 0x80] 0x00 0x00 0x90 0x24 [(0x0010, 0x00)])
    ⟨0x00, 0x00, 0x90, 0x26, 0x8002, 0xFD, .running, none⟩ [.read 0x8000 0xB6, .read 0x8001 0x80, .read 0x0010 0x00] = true := by decide
theorem test_V22_ldx_abs : agrees (pre 0x8000 [0xAE, 0xFC, 0xFF] 0x00 0x00 0x00 0x24 [(0xFFFC, 0x00)])
    ⟨0x00, 0x00, 0x00, 0x26, 0x8003, 0xFD, .running, none⟩ [.read 0x8000 0xAE, .read 0x8001 0xFC, .read 0x8002 0xFF, .read 0xFFFC 0x00] = true := by decide
theorem test_V20_ldx_absy : agrees (pre 0x8000 [0xBE, 0x00, 0x20] 0x00 0x00 0x03 0x24 [(0x2003, 0x44)])
    ⟨0x00, 0x44, 0x03, 0x24, 0x8003, 0xFD, .running, none⟩ [.read 0x8000 0xBE, .read 0x8001 0x00, .read 0x8002 0x20, .read 0x2003 0x44] = true := by decide
theorem test_V23_ldy_imm : agrees (pre 0x8000 [0xA0, 0x01] 0x00 0x00 0xEE 0x24 [])
    ⟨0x00, 0x00, 0x01, 0x24, 0x8002, 0xFD, .running, none⟩ [.read 0x8000 0xA0, .read 0x8001 0x01] = true := by decide
theorem test_V24_ldy_zp : agrees (pre 0x8000 [0xA4, 0x02] 0x00 0x00 0x00 0x24 [(0x0002, 0x80)])
    ⟨0x00, 0x00, 0x80, 0xA4, 0x8002, 0xFD, .running, none⟩ [.read 0x8000 0xA4, .read 0x8001 0x02, .read 0x0002 0x80] = true := by decide
theorem test_V25_ldy_zpx : agrees (pre 0x8000 [0xB4, 0x02] 0x00 0xFF 0x00 0x24 [(0x0001, 0x09)])
    ⟨0x00, 0xFF, 0x09, 0x24, 0x8002, 0xFD, .running, none⟩ [.read 0x8000 0xB4, .read 0x8001 0x02, .read 0x0001 0x09] = true := by decide
theorem test_V26_ldy_abs : agrees (pre 0x8000 [0xAC, 0x00, 0x02] 0x00 0x00 0x01 0x24 [(0x0200, 0x00)])
    ⟨0x00, 0x00, 0x00, 0x26, 0x8003, 0xFD, .running, none⟩ [.read 0x8000 0xAC, .read 0x8001 0x00, .read 0x8002 0x02, .read 0x0200 0x00] = true := by decide
theorem test_V27_ldy_absx : agrees (pre 0x8000 [0xBC, 0x01, 0x02] 0x00 0x80 0x00 0x24 [(0x0281, 0x7F)])
    ⟨0x00, 0x80, 0x7F, 0x24, 0x8003, 0xFD, .running, none⟩ [.read 0x8000 0xBC, .read 0x8001 0x01, .read 0x8002 0x02, .read 0x0281 0x7F] = true := by decide
theorem test_V55_sta_zp_keeps_flags : agrees (pre 0x8000 [0x85, 0x01] 0x00 0x00 0x00 0xFF [])
    ⟨0x00, 0x00, 0x00, 0xFF, 0x8002, 0xFD, .running, none⟩ [.read 0x8000 0x85, .read 0x8001 0x01, .write 0x0001 0x00] = true := by decide
theorem test_V41_sta_zpx_wraps : agrees (pre 0x8000 [0x95, 0xF0] 0x9A 0x20 0x00 0x24 [])
    ⟨0x9A, 0x20, 0x00, 0x24, 0x8002, 0xFD, .running, none⟩ [.read 0x8000 0x95, .read 0x8001 0xF0, .write 0x0010 0x9A] = true := by decide
theorem test_V48_sta_abs_next_opcode : agrees (pre 0x8000 [0x8D, 0x03, 0x80] 0xE8 0x00 0x00 0x24 [(0x8003, 0x00)])
    ⟨0xE8, 0x00, 0x00, 0x24, 0x8003, 0xFD, .running, none⟩ [.read 0x8000 0x8D, .read 0x8001 0x03, .read 0x8002 0x80, .write 0x8003 0xE8] = true := by decide
theorem test_V43_sta_absx_to_FFFF : agrees (pre 0x8000 [0x9D, 0xF0, 0xFF] 0x12 0x0F 0x00 0x24 [])
    ⟨0x12, 0x0F, 0x00, 0x24, 0x8003, 0xFD, .running, none⟩ [.read 0x8000 0x9D, .read 0x8001 0xF0, .read 0x8002 0xFF, .write 0xFFFF 0x12] = true := by decide
theorem test_V44_sta_absy_wraps : agrees (pre 0x8000 [0x99, 0xFF, 0xFF] 0x34 0x00 0x01 0x24 [])
    ⟨0x34, 0x00, 0x01, 0x24, 0x8003, 0xFD, .running, none⟩ [.read 0x8000 0x99, .read 0x8001 0xFF, .read 0x8002 0xFF, .write 0x0000 0x34] = true := by decide
theorem test_V45_sta_indx : agrees (pre 0x8000 [0x81, 0x40] 0x56 0x02 0x00 0x24 [(0x0042, 0x00), (0x0043, 0x03)])
    ⟨0x56, 0x02, 0x00, 0x24, 0x8002, 0xFD, .running, none⟩ [.read 0x8000 0x81, .read 0x8001 0x40, .read 0x0042 0x00, .read 0x0043 0x03, .write 0x0300 0x56] = true := by decide
theorem test_V46_sta_indy : agrees (pre 0x8000 [0x91, 0x40] 0x78 0x00 0xFF 0x24 [(0x0040, 0x01), (0x0041, 0x03)])
    ⟨0x78, 0x00, 0xFF, 0x24, 0x8002, 0xFD, .running, none⟩ [.read 0x8000 0x91, .read 0x8001 0x40, .read 0x0040 0x01, .read 0x0041 0x03, .write 0x0400 0x78] = true := by decide
theorem test_V49_stx_zp : agrees (pre 0x8000 [0x86, 0x00] 0x00 0xC1 0x00 0x24 [])
    ⟨0x00, 0xC1, 0x00, 0x24, 0x8002, 0xFD, .running, none⟩ [.read 0x8000 0x86, .read 0x8001 0x00, .write 0x0000 0xC1] = true := by decide
theorem test_V50_stx_zpy_wraps : agrees (pre 0x8000 [0x96, 0xFF] 0x00 0x07 0x02 0x24 [])
    ⟨0x00, 0x07, 0x02, 0x24, 0x8002, 0xFD, .running, none⟩ [.read 0x8000 0x96, .read 0x8001 0xFF, .write 0x0001 0x07] = true := by decide
theorem test_V51_stx_abs : agrees (pre 0x8000 [0x8E, 0x00, 0x01] 0x00 0xFD 0x00 0x24 [])
    ⟨0x00, 0xFD, 0x00, 0x24, 0x8003, 0xFD, .running, none⟩ [.read 0x8000 0x8E, .read 0x8001 0x00, .read 0x8002 0x01, .write 0x0100 0xFD] = true := by decide
theorem test_V52_sty_zp : agrees (pre 0x8000 [0x84, 0x7F] 0x00 0x00 0x01 0x24 [])
    ⟨0x00, 0x00, 0x01, 0x24, 0x8002, 0xFD, .running, none⟩ [.read 0x8000 0x84, .read 0x8001 0x7F, .write 0x007F 0x01] = true := by decide
theorem test_V53_sty_zpx : agrees (pre 0x8000 [0x94, 0x7F] 0x00 0x01 0x02 0x24 [])
    ⟨0x00, 0x01, 0x02, 0x24, 0x8002, 0xFD, .running, none⟩ [.read 0x8000 0x94, .read 0x8001 0x7F, .write 0x0080 0x02] = true := by decide
theorem test_V54_sty_abs : agrees (pre 0x8000 [0x8C, 0xFF, 0x01] 0x00 0x00 0x03 0x24 [])
    ⟨0x00, 0x00, 0x03, 0x24, 0x8003, 0xFD, .running, none⟩ [.read 0x8000 0x8C, .read 0x8001 0xFF, .read 0x8002 0x01, .write 0x01FF 0x03] = true := by decide
theorem test_V60_tax : agrees (pre 0x8000 [0xAA] 0x05 0xFF 0x00 0xA4 [])
    ⟨0x05, 0x05, 0x00, 0x24, 0x8001, 0xFD, .running, none⟩ [.read 0x8000 0xAA] = true := by decide
theorem test_V68_tax_keeps_flags : agrees (pre 0x8000 [0xAA] 0x80 0x00 0x00 0x6D [])
    ⟨0x80, 0x80, 0x00, 0xED, 0x8001, 0xFD, .running, none⟩ [.read 0x8000 0xAA] = true := by decide
theorem test_V63_inx_wraps : agrees (pre 0x8000 [0xE8] 0x00 0xFF 0x00 0xA4 [])
    ⟨0x00, 0x00, 0x00, 0x26, 0x8001, 0xFD, .running, none⟩ [.read 0x8000 0xE8] = true := by decide
theorem test_V67_inx_pc_wraps : agrees (pre 0xFFFF [0xE8] 0x00 0x01 0x00 0x24 [])
    ⟨0x00, 0x02, 0x00, 0x24, 0x0000, 0xFD, .running, none⟩ [.read 0xFFFF 0xE8] = true := by decide
theorem test_V71_adc_imm_no_carry_in : agrees (pre 0x8000 [0x69, 0x03] 0x02 0x00 0x00 0x25 [])
    ⟨0x05, 0x00, 0x00, 0x25, 0x8002, 0xFD, .running, none⟩ [.read 0x8000 0x69, .read 0x8001 0x03] = true := by decide
theorem test_V75_adc_imm_binary : agrees (pre 0x8000 [0x69, 0x01] 0x09 0x00 0x00 0x2C [])
    ⟨0x0A, 0x00, 0x00, 0x2C, 0x8002, 0xFD, .running, none⟩ [.read 0x8000 0x69, .read 0x8001 0x01] = true := by decide
theorem test_V77_adc_zp : agrees (pre 0x8000 [0x65, 0x10] 0x10 0x00 0x00 0x24 [(0x0010, 0x70)])
    ⟨0x80, 0x00, 0x00, 0xA4, 0x8002, 0xFD, .running, none⟩ [.read 0x8000 0x65, .read 0x8001 0x10, .read 0x0010 0x70] = true := by decide
theorem test_V78_adc_zpx : agrees (pre 0x8000 [0x75, 0xFF] 0x01 0x11 0x00 0x24 [(0x0010, 0xFE)])
    ⟨0xFF, 0x11, 0x00, 0xA4, 0x8002, 0xFD, .running, none⟩ [.read 0x8000 0x75, .read 0x8001 0xFF, .read 0x0010 0xFE] = true := by decide
theorem test_V79_adc_abs : agrees (pre 0x8000 [0x6D, 0x00, 0x03] 0x7F 0x00 0x00 0x24 [(0x0300, 0x01)])
    ⟨0x80, 0x00, 0x00, 0xA4, 0x8003, 0xFD, .running, none⟩ [.read 0x8000 0x6D, .read 0x8001 0x00, .read 0x8002 0x03, .read 0x0300 0x01] = true := by decide
theorem test_V80_adc_absx_no_carry_out : agrees (pre 0x8000 [0x7D, 0x00, 0x03] 0x01 0x01 0x00 0x24 [(0x0301, 0xFF)])
    ⟨0x00, 0x01, 0x00, 0x26, 0x8003, 0xFD, .running, none⟩ [.read 0x8000 0x7D, .read 0x8001 0x00, .read 0x8002 0x03, .read 0x0301 0xFF] = true := by decide
theorem test_V81_adc_absy : agrees (pre 0x8000 [0x79, 0x00, 0x03] 0xF0 0x00 0x02 0x24 [(0x0302, 0x0F)])
    ⟨0xFF, 0x00, 0x02, 0xA4, 0x8003, 0xFD, .running, none⟩ [.read 0x8000 0x79, .read 0x8001 0x00, .read 0x8002 0x03, .read 0x0302 0x0F] = true := by decide
theorem test_V82_adc_indx : agrees (pre 0x8000 [0x61, 0x00] 0x20 0x10 0x00 0x24 [(0x0010, 0x00), (0x0011, 0x04), (0x0400, 0x22)])
    ⟨0x42, 0x10, 0x00, 0x24, 0x8002, 0xFD, .running, none⟩ [.read 0x8000 0x61, .read 0x8001 0x00, .read 0x0010 0x00, .read 0x0011 0x04, .read 0x0400 0x22] = true := by decide
theorem test_V83_adc_indy : agrees (pre 0x8000 [0x71, 0x10] 0xFE 0x00 0x01 0x24 [(0x0010, 0x00), (0x0011, 0x04), (0x0401, 0x03)])
    ⟨0x01, 0x00, 0x01, 0x24, 0x8002, 0xFD, .running, none⟩ [.read 0x8000 0x71, .read 0x8001 0x10, .read 0x0010 0x00, .read 0x0011 0x04, .read 0x0401 0x03] = true := by decide
theorem test_V90_brk : agrees (pre 0x8002 [0x00] 0x05 0x01 0x02 0x24 [])
    ⟨0x05, 0x01, 0x02, 0x24, 0x8003, 0xFD, .halted, none⟩ [.read 0x8002 0x00] = true := by decide
theorem test_V92_brk_no_flags : agrees (pre 0x8000 [0x00] 0x00 0x00 0x00 0x00 [])
    ⟨0x00, 0x00, 0x00, 0x00, 0x8001, 0xFD, .halted, none⟩ [.read 0x8000 0x00] = true := by decide
theorem test_V100_unknown_opcode : agrees (pre 0x8000 [0xEA, 0xA9, 0x01] 0x11 0x22 0x33 0xA5 [])
    ⟨0x11, 0x22, 0x33, 0xA5, 0x8001, 0xFD, .aborted, (some ⟨.unknownOpcode, 0xEA, 0x8000⟩)⟩ [.read 0x8000 0xEA] = true := by decide
theorem test_V101_unknown_opcode_pc_wraps : agrees (pre 0xFFFF [0xFF] 0x00 0x00 0x00 0x24 [])
    ⟨0x00, 0x00, 0x00, 0x24, 0x0000, 0xFD, .aborted, (some ⟨.unknownOpcode, 0xFF, 0xFFFF⟩)⟩ [.read 0xFFFF 0xFF] = true := by decide
theorem test_V104_window_lda : agrees (pre 0xFFFE [0xAD, 0x10] 0x77 0x00 0x00 0x24 [])
    ⟨0x77, 0x00, 0x00, 0x24, 0xFFFF, 0xFD, .aborted, (some ⟨.read16Window, 0xAD, 0xFFFE⟩)⟩ [.read 0xFFFE 0xAD] = true := by decide
theorem test_V105_window_sta : agrees (pre 0xFFFE [0x9D, 0x10] 0x77 0x01 0x00 0x24 [])
    ⟨0x77, 0x01, 0x00, 0x24, 0xFFFF, 0xFD, .aborted, (some ⟨.read16Window, 0x9D, 0xFFFE⟩)⟩ [.read 0xFFFE 0x9D] = true := by decide

/-! ## Host transactions: section 3 of the vectors -/

/-- The state a transaction leaves. -/
def after? (r : Result) : Option State :=
  match r with
  | .next t => some t
  | .fault _ => none
  | .refused _ => none

theorem test_T1_load :
    (after? (load [0xA9, 0x05, 0x00] State.reset)).map State.mem =
      some [(0x8000, 0xA9), (0x8001, 0x05), (0xFFFD, 0x80)] := by decide

/-- T2, T3: Reset from an aborted run keeps Y and memory and reads the vector as it stands. -/
theorem test_T2_reset :
    let s : State := ⟨0x12, 0x34, 0x56, 0xFD, 0x1234, Flags.ofByte 0xA7, .aborted, some ⟨.unknownOpcode, 0xEA, 0x1233⟩, [(0xFFFD, 0x80)]⟩
    inspect s.resetTransaction = ⟨0x00, 0x00, 0x56, 0x24, 0x8000, 0xFD, .running, none⟩ ∧ s.resetTransaction.mem = s.mem := by decide
theorem test_T3_reset_vector :
    (State.powerOn 0 0 0 0 [(0xFFFC, 0xFE), (0xFFFD, 0xFF)]).resetTransaction.pc = 0xFFFE := by decide

/-- T4 to T6: Step is disabled while Halted, while Aborted and before the first Reset. -/
theorem test_T5_step_disabled (k : AbortRecord) : step { State.reset with run := .aborted, abort := some k } =
    .next { State.reset with run := .aborted, abort := some k } := rfl
theorem test_T6_step_before_reset : step (State.powerOn 0x11 0x22 0x33 0x8000 [(0x8000, 0xE8)]) =
    .next (State.powerOn 0x11 0x22 0x33 0x8000 [(0x8000, 0xE8)]) := rfl
theorem test_T8_longer_image_refused (image : List Byte) (s : State) (h : image.length = 0x7FFD) :
    load image s = .refused .imageTooLong := by
  unfold load; rw [test_image_too_long_refused image h]; rfl
theorem test_T9_empty_image : (after? (load [] State.reset)).map State.mem = some [(0xFFFD, 0x80)] := by decide
theorem test_T11_raw_access : rawRead (rawWrite State.reset 0xFFFF 0xA5) 0xFFFF = 0xA5 := by decide

/-- State.reset is the Reset transaction on the power-on state of logs 1 and 2 (R231; log 3). -/
theorem test_reset_is_the_transaction : (State.powerOn 0x00 0x00 Config.yPowerOn 0x0000 []).resetTransaction = State.reset := rfl

/-- What an instruction placed by `withFetchWord` does as the first after reset. -/
theorem test_withFetchWord :
    (after? (step (State.reset.withFetchWord 16 0x05A9))).map inspect =
      some ⟨0x05, 0x00, 0x00, 0x24, 0x0002, 0xFD, .running, none⟩ ∧
    (State.reset.withFetchWord 24 0x1234AD).fetchInstr = some (.ldaAbs 0x1234) := by decide

/-! ## Witnesses: states and operands that meet every hypothesis of an obligation, each clause at a boundary -/

/-- LDA $1234 at 0xFFFD, the last place a 3-byte instruction runs. -/
def atFFFD : State := pre 0xFFFD [0xAD, 0x34, 0x12] 0x00 0x01 0x02 0x24 []
/-- The same at 0xFFFE, the window. -/
def atFFFE : State := pre 0xFFFE [0xAD, 0x34, 0x12] 0x00 0x01 0x02 0x24 []
/-- STA $8003 at 0x8000: a store over the next opcode (V48). -/
def storing : State := pre 0x8000 [0x8D, 0x03, 0x80] 0xE8 0x00 0x00 0x24 []
/-- NOP's byte, illegal here, at 0x8000 (V100). -/
def unknown : State := pre 0x8000 [0xEA] 0x11 0x22 0x33 0xA5 []

theorem witness_EncodeOfDecodeIsTheBytes : decode [0xAD, 0x34, 0x12, 0x00] = .ok (.ldaAbs 0x1234) [0x00] := by decide
theorem witness_StepRunsTheDecodedInstruction : atFFFD.run = .running ∧
    decodeWindow (atFFFD.mem.read atFFFD.pc) (atFFFD.mem.read (atFFFD.pc + 1)) (atFFFD.mem.read (atFFFD.pc + 2)) =
      some (.ldaAbs 0x1234) := by decide
theorem witness_StepRunsTheInstructionWhoseBytesStandAtPc : atFFFE.run = .running ∧
    ∀ (k : Nat) (b : Byte), (encode (.ldaAbs 0x1234))[k]? = some b → atFFFE.mem.read (atFFFE.pc + BitVec.ofNat 16 k) = b := by
  refine ⟨rfl, fun k b h => ?_⟩
  match k, h with
  | 0, h => cases h; decide
  | 1, h => cases h; decide
  | 2, h => cases h; decide
  | k + 3, h => simp [encode] at h

/-- One state for each of the three outcomes: Continue, Halt, Abort. -/
theorem witness_StepHasThreeOutcomes :
    (atFFFD.run = .running ∧ (after? (step atFFFD)).map State.run = some .running) ∧
    (State.reset.run = .running ∧ (after? (step State.reset)).map State.run = some .halted) ∧
    (unknown.run = .running ∧ (after? (step unknown)).map State.run = some .aborted) := by decide
theorem witness_AbortIsPrecise :
    (∃ t, unknown.run = .running ∧ step unknown = .next t ∧ t.run = .aborted) ∧
    (∃ t, atFFFE.run = .running ∧ step atFFFE = .next t ∧ t.run = .aborted) :=
  ⟨⟨_, rfl, rfl, rfl⟩, ⟨_, rfl, rfl, rfl⟩⟩
theorem witness_ByteWithoutRowAbortsUnknownOpcode : unknown.run = .running ∧ opcodeLookup (unknown.mem.read unknown.pc) = none := by decide
theorem witness_AbsoluteFormAtFFFEAborts : ∃ d, atFFFE.run = .running ∧ atFFFE.pc = 0xFFFE ∧
    opcodeLookup (atFFFE.mem.read 0xFFFE) = some d ∧ d.mode.isAbsolute = true := ⟨⟨.lda, .absolute, 3, 4⟩, by decide⟩
theorem witness_HandlerWithoutAddressAbortsUnsupportedMode :
    ∃ (table : Byte → Option Descriptor) (d : Descriptor), unknown.run = .running ∧ table (unknown.mem.read unknown.pc) = some d ∧
      d.mnemonic.needsAddress = true ∧ d.mode = .implicit ∧ (Engine.step table unknown).run = .aborted ∧
      (Engine.step table unknown).abort = some ⟨.unsupportedAddressingMode, 0xEA, 0x8000⟩ :=
  ⟨fun _ => some ⟨.lda, .implicit, 1, 2⟩, ⟨.lda, .implicit, 1, 2⟩, rfl, rfl, rfl, rfl, by decide, by decide⟩
theorem witness_AutoAdvanceUnlessRedirected :
    atFFFD.pc = 0xFFFD ∧ atFFFD.pc ≠ 0xFFFE ∧ atFFFD.run = .running ∧
    opcodeLookup (atFFFD.mem.read atFFFD.pc) = some ⟨.lda, .absolute, 3, 4⟩ ∧
    ∃ ea t, Engine.address .absolute atFFFD.preAdvance = .ok ea ∧ Engine.handler .lda ea atFFFD.preAdvance = .ok t :=
  ⟨by decide, by decide, by decide, by decide, _, _, rfl, rfl⟩
theorem witness_CyclesAreReadByNothing (b : Byte) :
    (opcodeLookup b).map (fun d => (d.mnemonic, d.mode, d.length)) =
      ((opcodeLookup b).map (fun d => { d with cycles := 0 })).map (fun d => (d.mnemonic, d.mode, d.length)) := by
  cases opcodeLookup b <;> rfl
theorem witness_StoppedMachineStaysUntilReset :
    State.reset.halt.run ≠ .running ∧ (Transaction.rawWrite 0xFFFC 0x01) ≠ .reset ∧
      ∃ t, perform (.rawWrite 0xFFFC 0x01) State.reset.halt = .next t := ⟨by decide, by decide, _, rfl⟩
theorem witness_SetZnWritesZeroAndNegative : Instr.tax.mnemonic.isStore = false ∧ Instr.tax.mnemonic ≠ .brk ∧
    atFFFE.inWindow .tax = false ∧ atFFFD.inWindow (.ldyAbs 0x1234) = false ∧ atFFFE.inWindow (.ldyAbs 0x1234) = true := by decide
theorem witness_InstructionsWriteOnlyTheirFlags : Transaction.run 3 ≠ .reset ∧ ∃ t, perform (.run 3) atFFFD = .next t :=
  ⟨by decide, _, rfl⟩
theorem witness_NoInstructionReadsAFlag : (Instr.adcImm 0xFF).mnemonic.isStore = false ∧
    (Instr.adcImm 0xFF).mnemonic ≠ .brk ∧ atFFFE.inWindow (.adcImm 0xFF) = false := by decide
theorem witness_WriteSetsOneByte : Memory.wf [] = true ∧ Memory.wf [(0x0000, 0x01), (0xFFFF, 0xFF)] = true := by decide
theorem witness_CanonicalMemoryIsDetermined : Memory.wf [(0xFFFF, 0xFF)] = true ∧
    ∀ a : Word, Memory.read [(0xFFFF, 0xFF)] a = Memory.read (Memory.write [] 0xFFFF 0xFF) a := ⟨by decide, fun _ => rfl⟩
theorem witness_SixteenBitAccessesRoundTrip : Memory.wf [] = true ∧ (0xFFFE : Word) ≠ 0xFFFF ∧
    ((Memory.write16 [] 0xFFFE 0x1234).bind (fun m => m.read16 0xFFFE)) = some 0x1234 := by decide

/-- Page zero and pointer wraps meet their hypotheses: X = 1 with operand byte 0xFF at PC. -/
theorem witness_ImmediateAndZeroPageAddresses : ∃ s : State, s.mem.read s.pc = 0xFF ∧ s.x = 0x01 ∧
    (0xFF + 0x01 : Nat) % 256 = 0 := ⟨pre 0xFFFF [0xFF] 0 1 2 0x24 [], by decide⟩
theorem witness_AbsoluteAddresses :
    (∃ s : State, s.mem.read s.pc = 0xFF ∧ s.mem.read (s.pc + 1) = 0x12 ∧ s.pc ≠ 0xFFFF) ∧
    (∃ s : State, s.mem.read s.pc = 0xFF ∧ s.mem.read (s.pc + 1) = 0x12 ∧ s.pc = 0xFFFF) :=
  ⟨⟨pre 0xFFFE [0xFF, 0x12] 0 1 2 0x24 [], by decide⟩, ⟨pre 0xFFFF [0xFF, 0x12] 0 1 2 0x24 [], by decide⟩⟩
theorem witness_IndirectAddresses : ∃ (s : State) (lo hi : Word), s.mem.read s.pc = 0xFE ∧
    lo.toNat = ((0xFE : Byte).toNat + s.x.toNat) % 256 ∧ hi.toNat = ((0xFE : Byte).toNat + s.x.toNat + 1) % 256 ∧ hi = 0x0000 :=
  ⟨pre 0x8001 [0xFE] 0 1 2 0x24 [], 0x00FF, 0x0000, by decide⟩

/-- Both clauses of every absolute form of the form statements: PC below the window and PC in it. -/
theorem witness_FormOutsideWindow : atFFFD.pc ≠ 0xFFFE ∧ atFFFE.pc = 0xFFFE := by decide
theorem witness_TaxAndInxWriteX : ∃ s : State, s.run = .running ∧ s.mem.read s.pc = 0xE8 :=
  ⟨pre 0xFFFF [0xE8] 0 0xFF 0 0x24 [], by decide⟩
theorem witness_BrkOnlyHalts : State.reset.run = .running ∧ State.reset.mem.read State.reset.pc = 0x00 := by decide
theorem witness_LawOfTheLoads : (Instr.ldaAbs 0x1234).mnemonic = .lda ∧ atFFFD.inWindow (.ldaAbs 0x1234) = false ∧
    atFFFD.fetchInstr = some (.ldaAbs 0x1234) := by decide
theorem witness_LawOfTheStores : (Instr.staAbs 0x8003).mnemonic.isStore = true ∧ storing.inWindow (.staAbs 0x8003) = false ∧
    storing.mem.wf = true ∧ .read 0x8001 0x03 ∈ storing.instrAccesses (.staAbs 0x8003) ∧
    .read 0x8002 0x80 ∈ storing.instrAccesses (.staAbs 0x8003) ∧ (Instr.staAbs 0x8003).length = 3 ∧
    (Instr.staZp 0x03).length = 2 ∧ storing.instrAccesses (.staZp 0x03) = [.read 0x8001 0x03, .write 0x0003 0xE8] := by decide
theorem witness_LawOfAdc : ∃ s : State, (Instr.adcImm 0x10).mnemonic = .adc ∧ s.inWindow (.adcImm 0x10) = false ∧
    s.fetchInstr = some (.adcImm 0x10) := ⟨pre 0xFFFF [0x69, 0x10] 1 0 0 0x24 [], by decide⟩
theorem witness_FrameOfTheImplicitForms : Instr.brk.mode = .implicit ∧ Instr.tax.mode = .implicit ∧ Instr.inx.mode = .implicit := by
  decide

/-- A sequence of states, each left by INX in the one before. -/
def inxRun : Nat → State
  | 0 => atFFFD
  | k + 1 =>
    match exec .inx (inxRun k) with
    | .next t => t
    | .fault _ => inxRun k
    | .refused _ => inxRun k
theorem witness_Inx256TimesReturnsX (k : Nat) : exec .inx (inxRun k) = .next (inxRun (k + 1)) := rfl

theorem witness_StoreIsSeenByTheNextFetch : storing.mem.wf = true ∧ (Instr.staAbs 0x8003).mnemonic.isStore = true ∧
    storing.preAdvance.resolve (Instr.staAbs 0x8003).operand = .ok 0x8003 ∧
    0x8003 = storing.pc + BitVec.ofNat 16 (Instr.staAbs 0x8003).length := ⟨by decide, by decide, rfl, by decide⟩
theorem witness_StepKeepsSound : atFFFE.Sound ∧ ∃ t, step atFFFE = .next t := ⟨⟨by decide, by decide⟩, _, rfl⟩
theorem witness_StepKeepsResetHeldState : atFFFD.ResetHeld ∧ ∃ t, step atFFFD = .next t := ⟨by unfold State.ResetHeld; decide, _, rfl⟩
theorem witness_TransactionsKeepTheInvariants : atFFFE.Sound ∧ atFFFE.ResetHeld ∧
    (∃ t, perform (.run 2) atFFFE = .next t) ∧ ∃ t, perform (.load [0xA9]) atFFFE = .next t :=
  ⟨⟨by decide, by decide⟩, by unfold State.ResetHeld; decide, ⟨_, rfl⟩, _, rfl⟩
theorem witness_ResetEstablishesTheInvariants : storing.mem.wf = true := by decide
theorem witness_AccessesOfEachMode : ∃ s : State, s.run = .running ∧ s.fetchInstr = some (.ldaIndX 0xFE) ∧
    s.inWindow (.ldaIndX 0xFE) = false := ⟨pre 0xFFFE [0xA1, 0xFE] 0 1 0 0x24 [], by decide⟩

/-- BRK at 0x0000 reads its opcode byte alone, so memory may differ everywhere else. -/
theorem witness_StepDependsOnlyOnItsReads (a : Word) (v : Byte) (h : .read a v ∈ busAccesses State.reset) :
    Memory.read [(0x0001, 0x55)] a = v := by
  rw [show busAccesses State.reset = [.read 0x0000 0x00] by decide, List.mem_singleton] at h
  cases h
  decide
theorem witness_LoadPlacesImageAndVector : State.reset.mem.wf = true ∧ (List.replicate 0x7FFC (0x01 : Byte)).length ≤ 0x7FFC ∧
    (List.replicate 0x7FFC (0x01 : Byte))[0x7FFB]? = some 0x01 ∧ 0x7FFC < (List.replicate 0x7FFD (0x01 : Byte)).length :=
  ⟨rfl, by rw [List.length_replicate], by rw [List.getElem?_replicate]; rfl, by rw [List.length_replicate]; exact Nat.lt_succ_self _⟩
theorem witness_OnlyResetAndStepsChangeRegisters : ∃ t, perform (.rawWrite 0xFFFF 0xA5) State.reset = .next t ∧
    State.reset.mem.wf = true := ⟨_, rfl, by decide⟩
theorem witness_RunIsStepsInSequence : atFFFD.run = .running ∧ State.reset.halt.run ≠ .running := by decide
theorem witness_AbortedRunIsNeverSuccessful : ∃ t, RunFailsIn unknown t := ⟨_, ⟨1, rfl, rfl⟩, rfl⟩

end Sys2Proof.Tests
end

namespace Sys2Proof.Machine

open Stated

/-! ## SetZN (R25) -/

theorem setZN_eq_withZN (s : State) (v : Byte) : s.setZN v = withZN s v := rfl

/-- Bit 7 of a byte is set exactly from 0x80 on. -/
theorem getLsbD_seven_iff (v : Byte) : v.getLsbD 7 = true ↔ 0x80 ≤ v.toNat := by
  have hmsb : v.getLsbD 7 = v.msb := v.msb_eq_getLsbD_last.symm
  rw [hmsb, BitVec.msb_eq_decide, decide_eq_true_iff]

theorem flags_setZN_n_iff (f : Flags) (v : Byte) : (f.setZN v).n = true ↔ 0x80 ≤ v.toNat := by
  rw [flags_setZN_n, getLsbD_seven_iff]

theorem flags_setZN_z_iff (f : Flags) (v : Byte) : (f.setZN v).z = true ↔ v.toNat = 0 :=
  decide_eq_true_iff.trans BitVec.toNat_inj.symm

theorem flags_setZN_not_zero_and_negative (f : Flags) (v : Byte) : ¬ ((f.setZN v).z = true ∧ (f.setZN v).n = true) := by
  rw [flags_setZN_z_iff, flags_setZN_n_iff]
  omega

/-! ## What an instruction does to P -/

/-- Everything an instruction can do: the abort of the window, or its handler's state with PC past it (R80, R87, R205). -/
theorem exec_cases (i : Instr) (s : State) :
    (s.inWindow i = true ∧ exec i s = .next (s.preAdvance.raise .read16Window i.opcode s.pc)) ∨
    (s.inWindow i = false ∧ ∃ ea b,
      (i.mnemonic.needsAddress = true →
        s.preAdvance.resolve i.operand = .ok ea ∧ s.preAdvance.operandByte i.operand = .ok b) ∧
      exec i s = .next ((handled i.mnemonic ea b s.preAdvance).setPc (s.pc + BitVec.ofNat 16 i.length))) := by
  cases hw : s.inWindow i with
  | true => exact .inl ⟨rfl, exec_in_window i s hw⟩
  | false =>
    refine .inr ⟨rfl, ?_⟩
    cases hn : i.mnemonic.needsAddress with
    | true =>
      obtain ⟨ea, b, hr, hb, he⟩ := exec_of_address i s hn hw
      exact ⟨ea, b, fun _ => ⟨hr, hb⟩, he⟩
    | false => exact ⟨0, 0, nofun, exec_of_implicit i s hn⟩

/-- The register whose new value is the operand of a handler's SetZN; 0x00 for the mnemonics without one. -/
def resultByte (m : Mnemonic) (t : State) : Byte :=
  match m with
  | .lda | .adc => t.a
  | .ldx | .tax | .inx => t.x
  | .ldy => t.y
  | .sta | .stx | .sty | .brk => 0x00

@[simp] theorem resultByte_setPc (m : Mnemonic) (t : State) (pc : Word) : resultByte m (t.setPc pc) = resultByte m t := by
  cases m <;> rfl

/-- SetZN of the register written is the final step of every handler that writes a register. -/
theorem handled_p_of_result (m : Mnemonic) (ea : Word) (b : Byte) (s : State) (hs : m.isStore = false) (hb : m ≠ .brk) :
    (handled m ea b s).p = s.p.setZN (resultByte m (handled m ea b s)) := by
  cases m with
  | lda | ldx | ldy | adc | tax | inx => rfl
  | sta | stx | sty => cases hs
  | brk => exact absurd rfl hb

/-- The handlers of the stores and of BRK write no flag. -/
theorem handled_p_of_store_or_brk (m : Mnemonic) (ea : Word) (b : Byte) (s : State) (h : m.isStore = true ∨ m = .brk) :
    (handled m ea b s).p = s.p := by
  cases m with
  | sta | stx | sty | brk => rfl
  | lda | ldx | ldy | adc | tax | inx => simp [Mnemonic.isStore] at h

/-- Settles O17: each clause of SetZN is a fact about one byte, and outside the window P is the one the handler's SetZN left. -/
theorem setZnWritesZeroAndNegative : Obligations.SetZnWritesZeroAndNegative := by
  unfold Obligations.SetZnWritesZeroAndNegative
  refine ⟨fun s v => ⟨setZN_eq_withZN s v, flags_setZN_n_iff s.p v, flags_setZN_z_iff s.p v,
    flags_setZN_not_zero_and_negative s.p v⟩, ?_⟩
  intro i s hs hb hw
  obtain ⟨hw', _⟩ | ⟨_, ea, b, _, he⟩ := exec_cases i s
  · simp [hw] at hw'
  · refine ⟨_, he, ?_⟩
    change _ = s.p.setZN (resultByte i.mnemonic _)
    rw [resultByte_setPc, setPc_p]
    exact handled_p_of_result i.mnemonic ea b s.preAdvance hs hb

/-! ## The six flags that only Reset writes (R26) -/

theorem Stated.SameOtherFlags.of_p_eq {s t : State} (h : t.p = s.p) : SameOtherFlags s t := by
  simp [SameOtherFlags, h]

theorem Stated.SameOtherFlags.of_p_setZN {s t : State} {v : Byte} (h : t.p = s.p.setZN v) : SameOtherFlags s t := by
  simp [SameOtherFlags, h]

theorem Stated.SameOtherFlags.trans {s t u : State} (hst : SameOtherFlags s t) (htu : SameOtherFlags t u) : SameOtherFlags s u := by
  obtain ⟨hc, hi, hd, hb, hu, hv⟩ := hst
  obtain ⟨hc', hi', hd', hb', hu', hv'⟩ := htu
  exact ⟨hc'.trans hc, hi'.trans hi, hd'.trans hd, hb'.trans hb, hu'.trans hu, hv'.trans hv⟩

/-- P after an instruction: SetZN of some byte, or as it was, and surely as it was after a store or BRK. -/
theorem exec_p_cases {i : Instr} {s t : State} (h : exec i s = .next t) :
    t.p = s.p ∨ (i.mnemonic.isStore = false ∧ i.mnemonic ≠ .brk ∧ ∃ v, t.p = s.p.setZN v) := by
  obtain ⟨_, he⟩ | ⟨_, ea, b, _, he⟩ := exec_cases i s <;> cases h.symm.trans he
  · exact .inl rfl
  · by_cases hm : i.mnemonic.isStore = true ∨ i.mnemonic = .brk
    · exact .inl (handled_p_of_store_or_brk i.mnemonic ea b s.preAdvance hm)
    · obtain ⟨hs, hb⟩ := not_or.1 hm
      have hs := Bool.eq_false_of_not_eq_true hs
      exact .inr ⟨hs, hb, _, handled_p_of_result i.mnemonic ea b s.preAdvance hs hb⟩

theorem exec_sameOtherFlags {i : Instr} {s t : State} (h : exec i s = .next t) : SameOtherFlags s t := by
  obtain hp | ⟨_, _, v, hp⟩ := exec_p_cases h
  · exact .of_p_eq hp
  · exact .of_p_setZN hp

theorem exec_p_of_store_or_brk {i : Instr} {s t : State} (h : exec i s = .next t)
    (hm : i.mnemonic.isStore = true ∨ i.mnemonic = .brk) : t.p = s.p := by
  obtain hp | ⟨hs, hb, _⟩ := exec_p_cases h
  · exact hp
  · simp [hs, hb] at hm

theorem step_sameOtherFlags {s t : State} (h : step s = .next t) : SameOtherFlags s t := by
  obtain ⟨i, _, _, he⟩ | ⟨_, _, he⟩ | ⟨_, he⟩ := step_cases s
  · exact exec_sameOtherFlags (he.symm.trans h)
  · cases he.symm.trans h
    exact .of_p_eq rfl
  · cases he.symm.trans h
    exact .of_p_eq rfl

/-! ## Runs (R89) -/

theorem step_next (s : State) : ∃ t, step s = .next t := by
  obtain ⟨i, _, _, he⟩ | ⟨_, _, he⟩ | ⟨_, he⟩ := step_cases s
  · rw [he]
    exact exec_next i s
  · exact ⟨_, he⟩
  · exact ⟨_, he⟩

/-- A stopped machine makes no step of a run. -/
theorem runSteps_of_stopped {s : State} (hr : s.run ≠ .running) : (fuel : Nat) → runSteps fuel s = .next s
  | 0 => rfl
  | _ + 1 => if_neg hr

/-- A run with a step to spare makes that step first; on a stopped machine the step answers the same state (R91). -/
theorem runSteps_succ {s t : State} (h : step s = .next t) (fuel : Nat) : runSteps (fuel + 1) s = runSteps fuel t := by
  by_cases hr : s.run = .running
  · simp only [runSteps, hr, if_true, h]
  · cases (step_of_stopped hr).symm.trans h
    rw [runSteps_of_stopped hr, runSteps_of_stopped hr]

/-- A run may be cut anywhere: running on from where it was left is the same run. -/
theorem runSteps_add {s t : State} {m : Nat} (h : runSteps m s = .next t) (n : Nat) :
    runSteps (m + n) s = runSteps n t := by
  induction m generalizing s with
  | zero =>
    cases h
    rw [Nat.zero_add]
  | succ m ih =>
    obtain ⟨u, hu⟩ := step_next s
    rw [runSteps_succ hu] at h
    rw [Nat.add_right_comm, runSteps_succ hu, ih h]

/-- What every step keeps, every run keeps. -/
theorem runSteps_keeps {Inv : State → Prop} (hstep : ∀ {s t : State}, step s = .next t → Inv s → Inv t) {fuel : Nat}
    {s t : State} (h : runSteps fuel s = .next t) (hs : Inv s) : Inv t := by
  induction fuel generalizing s with
  | zero =>
    cases h
    exact hs
  | succ fuel ih =>
    obtain ⟨u, hu⟩ := step_next s
    rw [runSteps_succ hu] at h
    exact ih h (hstep hu hs)

theorem runSteps_sameOtherFlags {fuel : Nat} {s t : State} (h : runSteps fuel s = .next t) : SameOtherFlags s t :=
  runSteps_keeps (Inv := SameOtherFlags s) (fun hu hs => hs.trans (step_sameOtherFlags hu)) h (.of_p_eq rfl)

/-! ## Transactions -/

/-- Load, when it answers a next state, has written memory alone (R235). -/
theorem load_next {image : List Byte} {s t : State} (h : load image s = .next t) : ∃ m, t = s.setMem m := by
  unfold load at h
  split at h
  · split at h <;> cases h
    exact ⟨_, rfl⟩
  · cases h

theorem perform_sameOtherFlags {tr : Transaction} {s t : State} (hr : tr ≠ .reset) (h : perform tr s = .next t) :
    SameOtherFlags s t := by
  cases tr with
  | load image =>
    obtain ⟨m, rfl⟩ := load_next h
    exact .of_p_eq rfl
  | reset => exact absurd rfl hr
  | step => exact step_sameOtherFlags h
  | run fuel => exact runSteps_sameOtherFlags h
  | rawRead _ | rawWrite _ _ | inspect =>
    cases h
    exact .of_p_eq rfl

/-- Settles O19: an instruction leaves P alone or applies SetZN to it, and of the transactions only Step and Run run instructions. -/
theorem instructionsWriteOnlyTheirFlags : Obligations.InstructionsWriteOnlyTheirFlags := by
  unfold Obligations.InstructionsWriteOnlyTheirFlags
  refine ⟨fun i s => ?_, fun tr s t hr h => perform_sameOtherFlags hr h⟩
  obtain ⟨t, h⟩ := exec_next i s
  exact ⟨t, h, exec_sameOtherFlags h, exec_p_of_store_or_brk h⟩

/-! ## The end of a run (R32, R97) -/

theorem State.stopped_iff (s : State) : s.stopped = true ↔ s.run ≠ .running := decide_eq_true_iff

/-- A run ends in one state, whatever the bounds on its steps: the longer of two bounds passes both ends. -/
theorem RunEndsIn.unique {s t t' : State} (h : RunEndsIn s t) (h' : RunEndsIn s t') : t = t' := by
  obtain ⟨m, hm, hstop⟩ := h
  obtain ⟨n, hn, hstop'⟩ := h'
  have hleft : runSteps (m + n) s = .next t := by rw [runSteps_add hm, runSteps_of_stopped (t.stopped_iff.1 hstop)]
  have hright : runSteps (n + m) s = .next t' := by rw [runSteps_add hn, runSteps_of_stopped (t'.stopped_iff.1 hstop')]
  rw [Nat.add_comm, hleft] at hright
  cases hright
  rfl

theorem runReport_of_aborted {s : State} (h : s.run = .aborted) : runReport s = .fault (.aborted s.abort) := by
  simp only [runReport, h]

/-- Settles O55: the end of a run is unique, so a run that ends Aborted has no Halted end. -/
theorem abortedRunIsNeverSuccessful : Obligations.AbortedRunIsNeverSuccessful := by
  unfold Obligations.AbortedRunIsNeverSuccessful
  intro s t t' ⟨hend, habort⟩
  refine ⟨fun ⟨hend', hhalt⟩ => ?_, runReport_of_aborted habort⟩
  cases hend.unique hend'
  cases habort.symm.trans hhalt

end Sys2Proof.Machine

namespace Sys2Proof.Machine

/-! ## Reads after a write (R42, R43) -/

theorem Memory.read_write {m : Memory} (hm : m.wf = true) (a b : Word) (v : Byte) :
    (m.write a v).read b = if b = a then v else m.read b := by
  split
  case isTrue hba =>
    rw [hba]
    exact Memory.read_write_self hm a v
  case isFalse hba => exact Memory.read_write_ne m v hba

/-- Settles O21: the read at the address written gives the byte, which needs the canonical form; every other read is unchanged. -/
theorem writeSetsOneByte : Obligations.WriteSetsOneByte := by
  unfold Obligations.WriteSetsOneByte
  exact fun _ hm a b v => Memory.read_write hm a b v

end Sys2Proof.Machine

namespace Sys2Proof.Machine

/-! ## Auto-advance (R86) -/

/-- A handler that left PC at `pc_before` has PC moved past the operand bytes, and nothing else. -/
theorem autoAdvance_of_eq {s : State} {pcBefore : Word} (h : s.pc = pcBefore) (length : Nat) :
    s.autoAdvance pcBefore length = { s with pc := s.pc + BitVec.ofNat 16 (length - 1) } := if_pos h

/-- A handler that redirected PC has its state kept. -/
theorem autoAdvance_of_ne {s : State} {pcBefore : Word} (h : s.pc ≠ pcBefore) (length : Nat) :
    s.autoAdvance pcBefore length = s := if_neg h

/-! ## The step engine over any table (R80) -/

/-- A running engine executes the row of the byte at PC, with PC past that byte (R82, R83). -/
theorem Engine.step_of_row {table : Byte → Option Descriptor} {s : State} {d : Descriptor} (hr : s.run = .running)
    (hd : table (s.mem.read s.pc) = some d) :
    Engine.step table s = Engine.execute d (s.mem.read s.pc) s.pc s.preAdvance := by
  simp only [Engine.step, hr, if_true, memRead_eq, hd]

/-- A row whose resolver and handler complete leaves the handler's state, auto-advanced from where PC stood before it (R86). -/
theorem Engine.execute_of_handler {d : Descriptor} {s t : State} {ea : Option Word} (hb : d.mnemonic ≠ .brk)
    (ha : Engine.address d.mode s = .ok ea) (ht : Engine.handler d.mnemonic ea s = .ok t) (op : Byte) (opaddr : Word) :
    Engine.execute d op opaddr s = t.autoAdvance s.pc d.length := by
  simp only [Engine.execute, if_neg hb, ha, ht]

/-- Settles O14: `pc_before` is PC after the pre-advance, and auto-advance is one test against it. -/
theorem autoAdvanceUnlessRedirected : Obligations.AutoAdvanceUnlessRedirected := by
  unfold Obligations.AutoAdvanceUnlessRedirected
  refine ⟨fun s pcBefore length => ⟨fun h => autoAdvance_of_eq h length, fun h => autoAdvance_of_ne h length⟩, ?_⟩
  intro table s t d ea hr hd hb ha ht
  rw [Engine.step_of_row hr hd, Engine.execute_of_handler hb ha ht, preAdvance_pc]

end Sys2Proof.Machine

namespace Sys2Proof

/-! ## Bytes and addresses as numbers -/

theorem zext16_toNat (b : Byte) : (zext16 b).toNat = b.toNat := BitVec.toNat_setWidth_of_le (by decide)

theorem hiLo_toNat (hi lo : Byte) : (hiLo hi lo).toNat = hi.toNat * 256 + lo.toNat := by
  rw [hiLo, BitVec.toNat_append, ← Nat.shiftLeft_add_eq_or_of_lt lo.isLt, Nat.shiftLeft_eq]

/-- An address with the number of a byte is that byte's place in page zero. -/
theorem eq_zext16_of_toNat_eq {w : Word} {b : Byte} (h : w.toNat = b.toNat) : w = zext16 b :=
  BitVec.eq_of_toNat_eq (h.trans (zext16_toNat b).symm)

namespace Machine

/-! ## The pointer of the indirect modes (R108 to R110) -/

/-- `ZpRead16(p)` as a number, from the two page-zero addresses it reads as numbers: the high byte's wraps at 0x00FF. -/
theorem Memory.zpRead16_toNat (m : Memory) {p : Byte} {lo hi : Word} (hlo : lo.toNat = p.toNat)
    (hhi : hi.toNat = (p.toNat + 1) % 256) :
    (m.zpRead16 p).toNat = (m.read hi).toNat * 256 + (m.read lo).toNat := by
  have hnext : hi.toNat = (p + 1).toNat := by rw [hhi, BitVec.toNat_add]; rfl
  rw [Memory.zpRead16, hiLo_toNat, eq_zext16_of_toNat_eq hlo, eq_zext16_of_toNat_eq hnext]

/-- Settles O26: both resolvers read the pointer at `d8 + X` or at `d8`, and the sums in 8 and in 16 bits are the sums of numbers
modulo 256 and modulo 65,536. -/
theorem indirectAddresses : Obligations.IndirectAddresses := by
  unfold Obligations.IndirectAddresses
  rintro s d8 rfl
  refine ⟨_, _, ⟨rfl, rfl, fun lo hi hlo hhi => ?_⟩, ⟨rfl, rfl, fun lo hi hlo hhi => ?_⟩⟩
  · have hp : (s.mem.read s.pc + s.x).toNat = ((s.mem.read s.pc).toNat + s.x.toNat) % 256 := BitVec.toNat_add ..
    exact s.mem.zpRead16_toNat (hlo.trans hp.symm) (by rw [hhi, hp, Nat.mod_add_mod])
  · rw [BitVec.toNat_add, zext16_toNat, s.mem.zpRead16_toNat hlo hhi]

end Machine

end Sys2Proof

namespace Sys2Proof

/-! ## The operand of a decoded instruction (R61, R62) -/

/-- In mode Immediate the operand that the decoder reads is byte 1, in each of the 42 rows that has that mode. -/
theorem decodeWindow_immediate {op b1 b2 d8 : Byte} {i : Instr} (h : decodeWindow op b1 b2 = some i)
    (ho : i.operand = .immediate d8) : d8 = b1 := by
  unfold decodeWindow at h
  split at h <;> cases h <;> cases ho <;> rfl

namespace Machine

open Stated

/-- The byte that the handler of the fetched instruction reads is `M[ea]` in every mode: in mode Immediate, where `d8` itself is the
data, `ea` is the address that fetch read `d8` from (R101). -/
theorem operandByte_of_fetched {s : State} {i : Instr} {ea : Word} (hf : s.fetchInstr = some i)
    (hr : s.preAdvance.resolve i.operand = .ok ea) :
    s.preAdvance.operandByte i.operand = .ok (s.mem.read ea) := by
  rw [operandByte_of_resolve _ _ _ hr]
  cases ho : i.operand with
  | immediate d8 =>
    rw [ho] at hr
    cases hr
    cases decodeWindow_immediate hf ho
    rfl
  | implicit | zeroPage | zeroPageX | zeroPageY | absolute | absoluteX | absoluteY | indirectX | indirectY => rfl

/-! ## The load family (R141) -/

/-- The handler of a load as one record update: the register of its mnemonic, and SetZN of the byte. -/
theorem handled_of_load {m : Mnemonic} (h : m = .lda ∨ m = .ldx ∨ m = .ldy) (ea : Word) (b : Byte) (s : State) :
    handled m ea b s =
      { s with
        a := if m = .lda then b else s.a
        x := if m = .ldx then b else s.x
        y := if m = .ldy then b else s.y
        p := s.p.setZN b } := by
  obtain rfl | rfl | rfl := h <;> rfl

theorem needsAddress_of_load {m : Mnemonic} (h : m = .lda ∨ m = .ldx ∨ m = .ldy) : m.needsAddress = true := by
  obtain rfl | rfl | rfl := h <;> rfl

theorem Stated.FlagsOf.of_p_setZN {t : State} {f : Flags} {v : Byte} (h : t.p = f.setZN v) : FlagsOf t v := by
  simp [FlagsOf, h]

/-- Settles O35: outside the window the step of a load is its handler's record update with PC past the instruction, and the byte it
loads is `M[ea]` when the instruction is the fetched one. -/
theorem lawOfTheLoads : Obligations.LawOfTheLoads := by
  unfold Obligations.LawOfTheLoads
  intro i s hm hw
  obtain ⟨ea, v, hr, hv, he⟩ := exec_of_address i s (needsAddress_of_load hm) hw
  rw [handled_of_load hm] at he
  have hread : s.fetchInstr = some i → v = s.mem.read ea := fun hf =>
    Except.ok.inj (hv.symm.trans (operandByte_of_fetched hf hr))
  exact ⟨ea, v, _, hr, hv, hread, he, rfl, rfl, rfl, .of_p_setZN rfl, .of_p_setZN rfl, ⟨rfl, rfl, rfl⟩, fun _ => rfl, rfl⟩

end Machine

end Sys2Proof

namespace Sys2Proof.Machine

/-! ## The accesses of a step (R58, R59) -/

/-- The operand and pointer reads of a mode are no writes. -/
theorem operandAccesses_filter_isWrite (s : State) (o : Operand) : (s.operandAccesses o).filter Access.isWrite = [] := by
  cases o <;> rfl

/-- Where a mode reads before the data access: its operand bytes, and in the indirect modes the two bytes of the pointer (R59). -/
theorem mem_operandAccesses {s : State} {o : Operand} {acc : Access} (h : acc ∈ s.operandAccesses o) :
    acc = s.readAccess (s.pc + 1) ∨ (o.mode.operandBytes = 2 ∧ acc = s.readAccess (s.pc + 2)) ∨
      (∃ d8, o = .indirectX d8 ∧ (acc = s.readAccess (zext16 (d8 + s.x)) ∨ acc = s.readAccess (zext16 (d8 + s.x + 1)))) ∨
      (∃ d8, o = .indirectY d8 ∧ (acc = s.readAccess (zext16 d8) ∨ acc = s.readAccess (zext16 (d8 + 1)))) := by
  cases o with
  | implicit | immediate => cases h
  | zeroPage | zeroPageX | zeroPageY => exact .inl (List.mem_singleton.1 h)
  | absolute | absoluteX | absoluteY => exact (List.mem_pair.1 h).imp_right fun h2 => .inl ⟨rfl, h2⟩
  | indirectX d8 => exact (List.mem_cons.1 h).imp_right fun hp => .inr (.inl ⟨d8, rfl, List.mem_pair.1 hp⟩)
  | indirectY d8 => exact (List.mem_cons.1 h).imp_right fun hp => .inr (.inr ⟨d8, rfl, List.mem_pair.1 hp⟩)

/-! ## The store family (R166) -/

theorem isStore_iff {m : Mnemonic} : m.isStore = true ↔ m = .sta ∨ m = .stx ∨ m = .sty := by
  cases m <;> decide

theorem needsAddress_of_store {m : Mnemonic} (h : m.isStore = true) : m.needsAddress = true := by
  obtain rfl | rfl | rfl := isStore_iff.1 h <;> rfl

/-- The handler of a store writes the register of its mnemonic at the effective address, and nothing else. -/
theorem handled_of_store {m : Mnemonic} (h : m.isStore = true) (ea : Word) (b : Byte) (s : State) :
    handled m ea b s = s.memWrite ea (s.storedByte m) := by
  obtain rfl | rfl | rfl := isStore_iff.1 h <;> rfl

theorem storedByte_of_store {m : Mnemonic} (h : m.isStore = true) (s : State) :
    s.storedByte m = if m = .sta then s.a else if m = .stx then s.x else s.y := by
  obtain rfl | rfl | rfl := isStore_iff.1 h <;> rfl

/-- Outside the window the step of a store writes its register's byte at the resolver's address and moves PC past the instruction. -/
theorem exec_of_store {i : Instr} {s : State} (hm : i.mnemonic.isStore = true) (hw : s.inWindow i = false) :
    ∃ ea, s.preAdvance.resolve i.operand = .ok ea ∧
      exec i s = .next (Stated.stored s ea (s.storedByte i.mnemonic) i.length) := by
  obtain ⟨ea, b, hr, _, he⟩ := exec_of_address i s (needsAddress_of_store hm) hw
  rw [handled_of_store hm] at he
  exact ⟨ea, hr, he⟩

/-- The accesses of a store that resolves: those of its mode, then its one write (R59). -/
theorem instrAccesses_of_store {i : Instr} {s : State} {ea : Word} (hm : i.mnemonic.isStore = true)
    (hr : s.preAdvance.resolve i.operand = .ok ea) :
    s.instrAccesses i = s.operandAccesses i.operand ++ [.write ea (s.storedByte i.mnemonic)] := by
  simp only [State.instrAccesses, needsAddress_of_store hm, hr, State.dataAccess, hm, if_true]

/-- The addresses that a store reads are those of its mode, because its data access is a write. -/
theorem read_addresses_of_store {i : Instr} {s : State} {ea a : Word} {v : Byte} (hm : i.mnemonic.isStore = true)
    (hr : s.preAdvance.resolve i.operand = .ok ea) (h : .read a v ∈ s.instrAccesses i) :
    a = s.pc + 1 ∨ (i.length = 3 ∧ a = s.pc + 2) ∨
      (∃ d8, i.operand = .indirectX d8 ∧ (a = zext16 (d8 + s.x) ∨ a = zext16 (d8 + s.x + 1))) ∨
      (∃ d8, i.operand = .indirectY d8 ∧ (a = zext16 d8 ∨ a = zext16 (d8 + 1))) := by
  have haddr : ∀ {b : Word}, Access.read a v = s.readAccess b → a = b := fun hb => (Access.read.inj hb).1
  rw [instrAccesses_of_store hm hr, List.mem_append, List.mem_singleton] at h
  obtain hop | hwrite := h
  · exact (mem_operandAccesses hop).imp haddr <| .imp
      (fun ⟨hbytes, h2⟩ => ⟨congrArg (1 + ·) hbytes, haddr h2⟩) <| .imp
      (fun ⟨d8, ho, hp⟩ => ⟨d8, ho, hp.imp haddr haddr⟩)
      (fun ⟨d8, ho, hp⟩ => ⟨d8, ho, hp.imp haddr haddr⟩)
  · cases hwrite

/-- Settles O36: outside the window the step of a store is one write at the resolver's address with PC past the instruction, and its
accesses are those of its mode and that write. -/
theorem lawOfTheStores : Obligations.LawOfTheStores := by
  unfold Obligations.LawOfTheStores
  intro i s hm hw
  obtain ⟨ea, hr, he⟩ := exec_of_store hm hw
  have hwrites : (s.instrAccesses i).filter Access.isWrite = [.write ea (s.storedByte i.mnemonic)] := by
    rw [instrAccesses_of_store hm hr, List.filter_append, operandAccesses_filter_isWrite]
    rfl
  refine ⟨ea, _, hr, he, fun hwf => ?_, fun b hb => Memory.read_write_ne s.mem _ hb, rfl, rfl, rfl, rfl, ⟨rfl, rfl, rfl⟩, rfl,
    hwrites, fun a v h => read_addresses_of_store hm hr h⟩
  rw [← storedByte_of_store hm]
  exact Memory.read_write_self hwf ea _

end Sys2Proof.Machine

namespace Sys2Proof.Machine

open Stated

/-! ## The instructions of mode Implicit -/

/-- A running step whose instruction needs no address accesses memory for its opcode byte alone (R59). -/
theorem busAccesses_of_implicit {s : State} {i : Instr} (hr : s.run = .running) (hf : s.fetchInstr = some i)
    (hn : i.mnemonic.needsAddress = false) : busAccesses s = [.read s.pc (s.mem.read s.pc)] := by
  have hi : s.instrAccesses i = [] := by simp [State.instrAccesses, hn]
  simp only [busAccesses, hr, hf, hi, State.readAccess, memRead_eq]

/-- An opcode byte that stands for `i` whatever follows it is fetched as `i`. -/
theorem fetchInstr_of_opcode {s : State} {op : Byte} {i : Instr} (hop : s.mem.read s.pc = op)
    (hd : ∀ b1 b2, decodeWindow op b1 b2 = some i) : s.fetchInstr = some i := by
  rw [State.fetchInstr, memRead_eq, hop, hd]

/-! ## Transfer and increment (R170, R171) -/

theorem decodeWindow_tax (b1 b2 : Byte) : decodeWindow 0xAA b1 b2 = some .tax := rfl

theorem decodeWindow_inx (b1 b2 : Byte) : decodeWindow 0xE8 b1 b2 = some .inx := rfl

/-- The step of TAX is its handler's record update with PC past the one byte of the instruction (R170). -/
theorem exec_tax (s : State) : exec .tax s = .next (loadedX s s.a 1) := exec_of_implicit .tax s rfl

/-- The step of INX is its handler's record update with PC past the one byte of the instruction (R171). -/
theorem exec_inx (s : State) : exec .inx s = .next (loadedX s (s.x + 1) 1) := exec_of_implicit .inx s rfl

/-- Settles O33: both are instructions of mode Implicit, so their step is their handler's and reads the opcode byte alone. -/
theorem taxAndInxWriteX : Obligations.TaxAndInxWriteX := by
  unfold Obligations.TaxAndInxWriteX
  intro s b1 b2
  refine ⟨⟨decodeWindow_tax b1 b2, exec_tax s⟩, ⟨decodeWindow_inx b1 b2, exec_inx s⟩, fun hr hop => ?_⟩
  obtain htax | hinx := hop
  · exact busAccesses_of_implicit hr (fetchInstr_of_opcode htax decodeWindow_tax) rfl
  · exact busAccesses_of_implicit hr (fetchInstr_of_opcode hinx decodeWindow_inx) rfl

end Sys2Proof.Machine

namespace Sys2Proof.Machine

open Stated

/-! ## ADC (R180, R189) -/

/-- The step of an ADC form whose operand byte is `m`: the sum with SetZN of it, and PC past the instruction (R180, R181 to R188). -/
theorem exec_of_adc {i : Instr} {s : State} {m : Byte} (hm : i.mnemonic = .adc)
    (hb : s.preAdvance.operandByte i.operand = .ok m) : exec i s = .next (loadedA s (s.a + m) i.length) := by
  rw [exec_eq_formOf, hm]
  exact readForm_of_ok rfl hb

/-- The operand byte is the same whatever the flags are. -/
theorem operandByte_with_p (s : State) (q : Flags) (o : Operand) :
    State.operandByte (State.preAdvance { s with p := q }) o = s.preAdvance.operandByte o :=
  operandByte_congr o rfl rfl rfl rfl

/-- Settles O37: outside the window the operand byte exists and is the same with any flags, so both steps leave the one sum; it is
`M[ea]` when the instruction is the fetched one. -/
theorem lawOfAdc : Obligations.LawOfAdc := by
  unfold Obligations.LawOfAdc
  intro i s q hm hw
  obtain ⟨ea, m, hr, hb, _⟩ := exec_of_address i s (by rw [hm]; rfl) hw
  have hread : s.fetchInstr = some i → m = s.mem.read ea := fun hf =>
    Except.ok.inj (hb.symm.trans (operandByte_of_fetched hf hr))
  have hbq := (operandByte_with_p s q i.operand).trans hb
  exact ⟨ea, m, _, _, hr, hb, hread, exec_of_adc hm hb, BitVec.toNat_add .., .of_p_setZN rfl, .of_p_setZN rfl, rfl, rfl,
    ⟨rfl, rfl, rfl⟩, fun _ => rfl, rfl, exec_of_adc hm hbq, rfl⟩

end Sys2Proof.Machine

namespace Sys2Proof

/-! ## The operand bytes of an instruction (R60 to R63) -/

/-- The bytes that stand for an operand, low byte first (R61, R62). -/
def Operand.bytes : Operand → List Byte
  | .implicit => []
  | .immediate d | .zeroPage d | .zeroPageX d | .zeroPageY d | .indirectX d | .indirectY d => [d]
  | .absolute w | .absoluteX w | .absoluteY w => [loByte w, hiByte w]

@[simp] theorem Operand.length_bytes (o : Operand) : o.bytes.length = o.mode.operandBytes := by
  cases o <;> rfl

theorem Mode.operandBytes_le_two (m : Mode) : m.operandBytes ≤ 2 := by
  cases m <;> decide

/-- An encoding is the opcode byte and the bytes of the operand (R60). -/
theorem encode_eq (i : Instr) : encode i = i.opcode :: i.operand.bytes := by
  cases i <;> rfl

/-- The operand bytes of an absolute mode are the two given bytes exactly if the operand is `hi : lo` (R61). -/
theorem bytes_of_word_eq_iff {w : Word} {lo hi : Byte} : [loByte w, hiByte w] = [lo, hi] ↔ w = hiLo hi lo := by
  constructor
  · intro h
    obtain ⟨rfl, rfl⟩ : loByte w = lo ∧ hiByte w = hi := by simpa using h
    exact (hiLo_hiByte_loByte w).symm
  · rintro rfl
    rw [loByte_hiLo, hiByte_hiLo]

/-! ## The decoder, inverted -/

/-- An instruction decoded from a window has the window's opcode byte, and its operand is the window's bytes as far as its mode has
any. -/
theorem opcode_and_bytes_of_decodeWindow {op b1 b2 : Byte} {i : Instr} (h : decodeWindow op b1 b2 = some i) :
    op = i.opcode ∧ i.operand.bytes = [b1, b2].take i.mode.operandBytes := by
  unfold decodeWindow at h
  split at h <;> cases h <;> refine ⟨rfl, ?_⟩
  all_goals simp [Instr.operand, Instr.mode, Operand.bytes, Operand.mode, Mode.operandBytes]

/-- The decoder reads an instruction back from its opcode byte and its operand bytes. -/
theorem decodeWindow_of_bytes {b1 b2 : Byte} {i : Instr} (h : i.operand.bytes = [b1, b2].take i.mode.operandBytes) :
    decodeWindow i.opcode b1 b2 = some i := by
  cases i
  all_goals
    simp only [Instr.operand, Instr.mode, Operand.bytes, Operand.mode, Mode.operandBytes, List.take_succ_cons, List.take_zero,
      bytes_of_word_eq_iff, List.singleton_inj] at h
  all_goals subst_vars; rfl

/-- What the decoder does: it answers the instruction of that opcode byte whose operand bytes stand in the window (R61, R62,
R66). -/
theorem decodeWindow_eq_some_iff {op b1 b2 : Byte} {i : Instr} :
    decodeWindow op b1 b2 = some i ↔ op = i.opcode ∧ i.operand.bytes = [b1, b2].take i.mode.operandBytes := by
  refine ⟨opcode_and_bytes_of_decodeWindow, ?_⟩
  rintro ⟨rfl, h⟩
  exact decodeWindow_of_bytes h

/-! ## Decoding of byte lists -/

/-- The window that `decode` looks at holds the bytes of the list as far as the list has them. -/
theorem take_window (bytes : List Byte) {n : Nat} (h2 : n ≤ 2) (hn : n ≤ bytes.length) :
    [bytes.getD 0 0, bytes.getD 1 0].take n = bytes.take n := by
  apply List.ext_getElem?
  intro k
  by_cases hk : k < n
  · have hlt : k < bytes.length := by omega
    rw [List.getElem?_take_of_lt hk, List.getElem?_take_of_lt hk]
    obtain rfl | rfl : k = 0 ∨ k = 1 := by omega
    all_goals simp [hlt]
  · rw [List.getElem?_take_eq_none (by omega), List.getElem?_take_eq_none (by omega)]

/-- What `decode` answers an instruction for begins with the instruction's encoding, and the rest is what it leaves. -/
theorem encode_append_of_decode {bytes rest : List Byte} {i : Instr} (h : decode bytes = .ok i rest) :
    encode i ++ rest = bytes := by
  cases bytes with
  | nil => cases h
  | cons op tail =>
    simp only [decode] at h
    split at h
    · cases h
    · rename_i hwindow
      split at h <;> cases h
      rename_i hlen
      obtain ⟨rfl, hbytes⟩ := decodeWindow_eq_some_iff.1 hwindow
      rw [encode_eq, List.cons_append, hbytes, take_window tail (Mode.operandBytes_le_two _) hlen, List.take_append_drop]

/-- `decode` reads an instruction back from its encoding, whatever follows it. -/
theorem decode_encode_append (i : Instr) (rest : List Byte) : decode (encode i ++ rest) = .ok i rest := by
  have hlen : i.operand.bytes.length = i.mode.operandBytes := i.operand.length_bytes
  rw [encode_eq, List.cons_append]
  generalize htail : i.operand.bytes ++ rest = tail
  have hle : i.mode.operandBytes ≤ tail.length := by simp [← htail, hlen]
  have hwindow : decodeWindow i.opcode (tail.getD 0 0) (tail.getD 1 0) = some i := by
    refine decodeWindow_of_bytes ?_
    rw [take_window tail (Mode.operandBytes_le_two _) hle, ← htail, List.take_left' hlen]
  simp only [decode, hwindow, if_pos hle]
  rw [← htail, List.drop_left' hlen]

/-- Settles O1: the window after the opcode byte holds the operand's bytes, so the decoder finds the instruction and drops those
bytes. -/
theorem decodeOfEncodeIsTheInstruction : Obligations.DecodeOfEncodeIsTheInstruction := by
  unfold Obligations.DecodeOfEncodeIsTheInstruction
  exact decode_encode_append

/-- Settles O2: the decoded instruction holds the opcode byte and every operand byte that `decode` dropped. -/
theorem encodeOfDecodeIsTheBytes : Obligations.EncodeOfDecodeIsTheBytes := by
  unfold Obligations.EncodeOfDecodeIsTheBytes
  exact fun _ _ _ => encode_append_of_decode

end Sys2Proof

namespace Sys2Proof

/-! ## The opcode table (R64, R66) -/

theorem lookupRow_eq_none_iff {rows : List Row} {b : Byte} : lookupRow rows b = none ↔ ∀ r ∈ rows, r.opcode ≠ b := by
  induction rows with
  | nil => simp [lookupRow]
  | cons r rest ih => by_cases h : r.opcode = b <;> simp [lookupRow, h, ih]

/-- What a lookup finds is a row of the table. -/
theorem exists_row_of_lookupRow {rows : List Row} {b : Byte} {d : Descriptor} (h : lookupRow rows b = some d) :
    ∃ r ∈ rows, r.opcode = b ∧ r.desc = d := by
  induction rows with
  | nil => cases h
  | cons r rest ih =>
    rw [lookupRow] at h
    split at h
    · rename_i hb
      exact ⟨r, List.mem_cons_self, hb, Option.some.inj h⟩
    · obtain ⟨r', hr', heq⟩ := ih h
      exact ⟨r', List.mem_cons_of_mem r hr', heq⟩

/-- The table's row for an instruction's opcode byte is the instruction's own mnemonic, mode and length. -/
theorem opcodeLookup_opcode (i : Instr) :
    (opcodeLookup i.opcode).map (fun d => (d.mnemonic, d.mode, d.length)) = some (i.mnemonic, i.mode, i.length) := by
  cases i <;> rfl

/-- Decoder and table have the same bytes without a row (R69). -/
theorem decodeWindow_eq_none_iff {op b1 b2 : Byte} : decodeWindow op b1 b2 = none ↔ opcodeLookup op = none := by
  constructor
  · intro h
    rw [opcodeLookup, lookupRow_eq_none_iff]
    have hrows : opcodeTable.all (fun r => (decodeWindow r.opcode b1 b2).isSome) = true := rfl
    rintro r hr rfl
    simpa [h] using List.all_eq_true.1 hrows r hr
  · intro h
    cases hd : decodeWindow op b1 b2 with
    | none => rfl
    | some i =>
      obtain ⟨rfl, _⟩ := decodeWindow_eq_some_iff.1 hd
      simpa [h] using opcodeLookup_opcode i

/-- Settles O3: the decoded instruction has the row of its opcode byte, and the bytes without a row are the same. -/
theorem decoderAgreesWithOpcodeTable : Obligations.DecoderAgreesWithOpcodeTable := by
  unfold Obligations.DecoderAgreesWithOpcodeTable
  intro op b1 b2
  cases hd : decodeWindow op b1 b2 with
  | none => rw [decodeWindow_eq_none_iff.1 hd, Option.map_none, Option.map_none]
  | some i =>
    obtain ⟨rfl, _⟩ := decodeWindow_eq_some_iff.1 hd
    exact (opcodeLookup_opcode i).symm

/-- The decoded instruction has a row in the table, with its mnemonic, mode and length. -/
theorem exists_row_of_decodeWindow {op b1 b2 : Byte} {i : Instr} (h : decodeWindow op b1 b2 = some i) :
    ∃ d, opcodeLookup op = some d ∧ d.mnemonic = i.mnemonic ∧ d.mode = i.mode ∧ d.length = i.length := by
  obtain ⟨rfl, _⟩ := decodeWindow_eq_some_iff.1 h
  simpa using opcodeLookup_opcode i

/-- A byte with a row decodes, whatever follows it, to an instruction of the row's mnemonic, mode and length. -/
theorem exists_decodeWindow_of_row {op : Byte} {d : Descriptor} (h : opcodeLookup op = some d) (b1 b2 : Byte) :
    ∃ i, decodeWindow op b1 b2 = some i ∧ d.mnemonic = i.mnemonic ∧ d.mode = i.mode ∧ d.length = i.length := by
  cases hd : decodeWindow op b1 b2 with
  | none => cases h.symm.trans (decodeWindow_eq_none_iff.1 hd)
  | some i =>
    obtain ⟨d', hd', hfields⟩ := exists_row_of_decodeWindow hd
    cases h.symm.trans hd'
    exact ⟨i, rfl, hfields⟩

/-- Every row has the length of its mode, and a mode that serves its handler (R63, R202). -/
theorem opcodeTable_rows_wf :
    ∀ r ∈ opcodeTable, r.desc.length = 1 + r.desc.mode.operandBytes ∧ r.desc.modeServesHandler = true := by
  decide

/-- Of the 256 bytes, 214 have no row (R69). -/
theorem count_bytes_without_row : ((List.range 256).filter (fun n => (opcodeLookup (BitVec.ofNat 8 n)).isNone)).length = 214 := by
  decide +kernel

/-- Settles O4: closed facts about the 42 rows and the 256 bytes. -/
theorem opcodeTableIsConsistent : Obligations.OpcodeTableIsConsistent := by
  unfold Obligations.OpcodeTableIsConsistent
  exact ⟨rfl, by decide, opcodeTable_rows_wf, count_bytes_without_row⟩

/-- Settles O5: the sixteen byte lists are closed terms, and each is decoded by computation. -/
theorem writtenOutWordsDecode : Obligations.WrittenOutWordsDecode := by
  unfold Obligations.WrittenOutWordsDecode
  decide

namespace Machine

/-! ## Fetch (R60, R81) -/

/-- Fetch answers the instruction whose opcode byte stands at PC and whose operand bytes follow it. -/
theorem fetchInstr_eq_some_iff {s : State} {i : Instr} :
    s.fetchInstr = some i ↔ s.mem.read s.pc = i.opcode ∧
      i.operand.bytes = [s.mem.read (s.pc + 1), s.mem.read (s.pc + 2)].take i.mode.operandBytes :=
  decodeWindow_eq_some_iff

theorem fetchInstr_eq_none_iff {s : State} : s.fetchInstr = none ↔ opcodeLookup (s.mem.read s.pc) = none :=
  decodeWindow_eq_none_iff

/-- Settles O6: the hypothesis is what fetch answers. -/
theorem stepRunsTheDecodedInstruction : Obligations.StepRunsTheDecodedInstruction := by
  unfold Obligations.StepRunsTheDecodedInstruction
  exact fun _ _ hr hd => step_of_decoded hr hd

/-- An instruction whose encoding stands at PC, consecutive modulo 2^16, is fetched. -/
theorem fetchInstr_of_encode {s : State} {i : Instr}
    (h : ∀ (k : Nat) (b : Byte), (encode i)[k]? = some b → s.mem.read (s.pc + BitVec.ofNat 16 k) = b) :
    s.fetchInstr = some i := by
  rw [encode_eq] at h
  have hop : s.mem.read s.pc = i.opcode := by simpa using h 0 i.opcode rfl
  refine fetchInstr_eq_some_iff.2 ⟨hop, ?_⟩
  have hbytes : ∀ k b, i.operand.bytes[k]? = some b → s.mem.read (s.pc + BitVec.ofNat 16 (k + 1)) = b := fun k b hb =>
    h (k + 1) b hb
  have h0 := hbytes 0
  have h1 := hbytes 1
  rw [Instr.mode]
  revert h0 h1
  cases i.operand <;> simp +contextual [Operand.bytes, Operand.mode, Mode.operandBytes, eq_comm]

/-- Settles O7: the instruction whose bytes stand at PC is the one fetched. -/
theorem stepRunsTheInstructionWhoseBytesStandAtPc : Obligations.StepRunsTheInstructionWhoseBytesStandAtPc := by
  unfold Obligations.StepRunsTheInstructionWhoseBytesStandAtPc
  exact fun _ _ hr h => step_of_decoded hr (fetchInstr_of_encode h)

end Machine

end Sys2Proof

namespace Sys2Proof.Machine

/-! ## Frames of the handlers (R11 to R15, R92) -/

variable (m : Mnemonic) (ea : Word) (b : Byte) (s : State)

theorem handled_pc : (handled m ea b s).pc = s.pc := by cases m <;> rfl

@[simp] theorem handled_sp : (handled m ea b s).sp = s.sp := by cases m <;> rfl
@[simp] theorem handled_abort : (handled m ea b s).abort = s.abort := by cases m <;> rfl

theorem handled_a_of_ne (hlda : m ≠ .lda) (hadc : m ≠ .adc) : (handled m ea b s).a = s.a := by
  cases m with
  | lda => exact absurd rfl hlda
  | adc => exact absurd rfl hadc
  | ldx | ldy | sta | stx | sty | tax | inx | brk => rfl

theorem handled_x_of_ne (hldx : m ≠ .ldx) (htax : m ≠ .tax) (hinx : m ≠ .inx) : (handled m ea b s).x = s.x := by
  cases m with
  | ldx => exact absurd rfl hldx
  | tax => exact absurd rfl htax
  | inx => exact absurd rfl hinx
  | lda | ldy | sta | stx | sty | adc | brk => rfl

theorem handled_y_of_ne (hldy : m ≠ .ldy) : (handled m ea b s).y = s.y := by
  cases m with
  | ldy => exact absurd rfl hldy
  | lda | ldx | sta | stx | sty | tax | inx | adc | brk => rfl

theorem handled_run_of_ne_brk (hbrk : m ≠ .brk) : (handled m ea b s).run = s.run := by
  cases m with
  | brk => exact absurd rfl hbrk
  | lda | ldx | ldy | sta | stx | sty | tax | inx | adc => rfl

/-- Memory after a handler: one byte written by a store, as it was otherwise (R49). -/
theorem handled_mem : (handled m ea b s).mem = if m.isStore then s.mem.write ea (s.storedByte m) else s.mem := by
  cases m <;> rfl

theorem handled_p_cases : (handled m ea b s).p = s.p ∨ ∃ v, (handled m ea b s).p = s.p.setZN v := by
  by_cases hm : m.isStore = true ∨ m = .brk
  · exact .inl (handled_p_of_store_or_brk m ea b s hm)
  · obtain ⟨hs, hb⟩ := not_or.1 hm
    exact .inr ⟨_, handled_p_of_result m ea b s (Bool.eq_false_of_not_eq_true hs) hb⟩

end Sys2Proof.Machine

namespace Sys2Proof.Machine

open Stated

/-! ## An instruction whose address is given (R80, R100) -/

/-- No mnemonic that needs no address uses the address or the byte it is given. -/
theorem handled_of_implicit {m : Mnemonic} (h : m.needsAddress = false) (ea ea' : Word) (b b' : Byte) (s : State) :
    handled m ea b s = handled m ea' b' s := by
  cases m with
  | tax | inx | brk => rfl
  | lda | ldx | ldy | sta | stx | sty | adc => cases h

theorem inWindow_iff {s : State} {i : Instr} : s.inWindow i = true ↔ i.mode.isAbsolute = true ∧ s.pc = 0xFFFE := by
  simp [State.inWindow]

theorem mode_ne_implicit_of_resolve {s : State} {o : Operand} {ea : Word} (h : s.resolve o = .ok ea) : o.mode ≠ .implicit := by
  rintro ho
  cases o <;> cases ho
  cases h

/-- An instruction whose address resolves is not in the window. -/
theorem inWindow_of_resolve {s : State} {i : Instr} {ea : Word} (h : s.preAdvance.resolve i.operand = .ok ea) :
    s.inWindow i = false := by
  refine Bool.eq_false_of_not_eq_true fun hw => ?_
  obtain ⟨ha, hpc⟩ := inWindow_iff.1 hw
  cases (resolve_window _ _ ha ((preAdvance_at_top s).2 hpc)).symm.trans h

/-- An instruction whose address resolves completes: its handler's state, from the address and the byte there, with PC past it. -/
theorem exec_of_resolve {i : Instr} {s : State} {ea : Word} (hr : s.preAdvance.resolve i.operand = .ok ea) :
    exec i s = .next ((handled i.mnemonic ea (s.preAdvance.dataByte i.operand ea) s.preAdvance).setPc
      (s.pc + BitVec.ofNat 16 i.length)) := by
  obtain ⟨ea', b', hr', hb', he⟩ :=
    exec_of_address i s ((needsAddress_iff i).2 (mode_ne_implicit_of_resolve hr)) (inWindow_of_resolve hr)
  cases hr.symm.trans hr'
  cases (operandByte_of_resolve _ _ _ hr).symm.trans hb'
  exact he

/-- The same for any instruction, given the address and the operand byte of those that need them. -/
theorem exec_of_resolved {i : Instr} {s : State} {ea : Word} {b : Byte}
    (h : i.mnemonic.needsAddress = true →
      s.preAdvance.resolve i.operand = .ok ea ∧ s.preAdvance.operandByte i.operand = .ok b) :
    exec i s = .next ((handled i.mnemonic ea b s.preAdvance).setPc (s.pc + BitVec.ofNat 16 i.length)) := by
  cases hn : i.mnemonic.needsAddress with
  | true =>
    obtain ⟨hr, hb⟩ := h hn
    cases (operandByte_of_resolve _ _ _ hr).symm.trans hb
    exact exec_of_resolve hr
  | false =>
    rw [handled_of_implicit hn ea 0 b 0]
    exact exec_of_implicit i s hn

/-! ## What a step of a running machine can do (R90) -/

theorem eq_brk_of_mnemonic {i : Instr} (h : i.mnemonic = .brk) : i = .brk := by
  cases i <;> cases h
  rfl

theorem exec_brk (s : State) : exec .brk s = .next { s with pc := s.pc + 1, run := .halted } := rfl

/-- The abort of the window, with the opcode byte that was fetched. -/
theorem step_in_window {s : State} {i : Instr} (hr : s.run = .running) (hf : s.fetchInstr = some i) (hw : s.inWindow i = true) :
    step s = .next (abortedAt s .read16Window (s.mem.read s.pc)) := by
  rw [step_of_decoded hr hf, exec_in_window i s hw, (fetchInstr_eq_some_iff.1 hf).1]
  rfl

theorem step_without_row {s : State} (hr : s.run = .running) (hf : s.fetchInstr = none) :
    step s = .next (abortedAt s .unknownOpcode (s.mem.read s.pc)) :=
  step_of_undecoded hr hf

/-- What a running machine's step can do: the handler of the fetched instruction with PC past it, or the abort of the window or of a
byte without a row. -/
theorem step_of_running {s : State} (hr : s.run = .running) :
    (∃ i ea b, s.fetchInstr = some i ∧ s.inWindow i = false ∧
      (i.mnemonic.needsAddress = true →
        s.preAdvance.resolve i.operand = .ok ea ∧ s.preAdvance.operandByte i.operand = .ok b) ∧
      step s = .next ((handled i.mnemonic ea b s.preAdvance).setPc (s.pc + BitVec.ofNat 16 i.length))) ∨
    (∃ i, s.fetchInstr = some i ∧ s.inWindow i = true ∧ step s = .next (abortedAt s .read16Window (s.mem.read s.pc))) ∨
    (s.fetchInstr = none ∧ step s = .next (abortedAt s .unknownOpcode (s.mem.read s.pc))) := by
  cases hf : s.fetchInstr with
  | none => exact .inr (.inr ⟨rfl, step_without_row hr hf⟩)
  | some i =>
    obtain ⟨hw, _⟩ | ⟨hw, ea, b, hres, he⟩ := exec_cases i s
    · exact .inr (.inl ⟨i, rfl, hw, step_in_window hr hf hw⟩)
    · exact .inl ⟨i, ea, b, rfl, hw, hres, (step_of_decoded hr hf).trans he⟩

/-- The state a step leaves: the same while stopped, a handler's with PC moved on, or that of an abort. -/
theorem eq_of_step {s t : State} (h : step s = .next t) :
    (s.run ≠ .running ∧ t = s) ∨
    (s.run = .running ∧ ∃ (i : Instr) (ea : Word) (b : Byte),
      t = (handled i.mnemonic ea b s.preAdvance).setPc (s.pc + BitVec.ofNat 16 i.length)) ∨
    (s.run = .running ∧ ∃ kind, t = abortedAt s kind (s.mem.read s.pc)) := by
  by_cases hr : s.run = .running
  · obtain ⟨i, ea, b, _, _, _, he⟩ | ⟨_, _, _, he⟩ | ⟨_, he⟩ := step_of_running hr <;> cases he.symm.trans h
    · exact .inr (.inl ⟨hr, i, ea, b, rfl⟩)
    · exact .inr (.inr ⟨hr, _, rfl⟩)
    · exact .inr (.inr ⟨hr, _, rfl⟩)
  · exact .inl ⟨hr, Host.Outcome.next.inj (h.symm.trans (step_of_stopped hr))⟩

/-- Settles O9: the handler of an instruction other than BRK keeps RUN, SP and ABORT, BRK's only halts, and both aborts are one
record update. -/
theorem stepHasThreeOutcomes : Obligations.StepHasThreeOutcomes := by
  unfold Obligations.StepHasThreeOutcomes
  intro s hr
  obtain ⟨i, ea, b, hf, _, _, he⟩ | ⟨_, _, _, he⟩ | ⟨_, he⟩ := step_of_running hr
  · by_cases hb : i.mnemonic = .brk
    · cases eq_brk_of_mnemonic hb
      exact .inr (.inl ⟨(fetchInstr_eq_some_iff.1 hf).1, he⟩)
    · exact .inl ⟨i, _, hf, hb, he, (handled_run_of_ne_brk _ _ _ _ hb).trans hr, rfl, handled_sp .., handled_abort ..⟩
  · exact .inr (.inr ⟨_, he⟩)
  · exact .inr (.inr ⟨_, he⟩)

/-- No handler aborts: RUN is as it was, or Halted by BRK. -/
theorem handled_run_ne_aborted {m : Mnemonic} {ea : Word} {b : Byte} {s : State} (h : s.run ≠ .aborted) :
    (handled m ea b s).run ≠ .aborted := by
  by_cases hb : m = .brk
  · subst hb
    exact nofun
  · rwa [handled_run_of_ne_brk _ _ _ _ hb]

/-- Settles O10: of the things a step can do only the two aborts leave RUN Aborted, each with its cause. -/
theorem abortIsPrecise : Obligations.AbortIsPrecise := by
  unfold Obligations.AbortIsPrecise
  intro s t hr hst ht
  obtain ⟨i, ea, b, _, _, _, he⟩ | ⟨i, hf, hw, he⟩ | ⟨hf, he⟩ := step_of_running hr <;> cases he.symm.trans hst
  · exact absurd ht (handled_run_ne_aborted (by simp [hr]))
  · obtain ⟨ha, hpc⟩ := inWindow_iff.1 hw
    obtain ⟨d, hd, _, hmode, _⟩ := exists_row_of_decodeWindow hf
    exact ⟨_, rfl, .inr ⟨rfl, hpc, d, hd, hmode ▸ ha⟩⟩
  · exact ⟨_, rfl, .inl ⟨rfl, fetchInstr_eq_none_iff.1 hf⟩⟩

/-! ## The invariants (R14, R17 to R25, R33) -/

/-- ABORT is empty while RUN is not Aborted, in a sound state. -/
theorem State.Sound.abort_eq_none {s : State} (h : s.Sound) (hr : s.run ≠ .aborted) : s.abort = none := by
  obtain ⟨_, habort⟩ := h
  simpa [hr] using habort

theorem State.Sound.of_not_aborted {s : State} (hm : s.mem.wf = true) (ha : s.abort = none) (hr : s.run ≠ .aborted) : s.Sound :=
  ⟨hm, by simp [ha, hr]⟩

theorem handled_mem_wf {m : Mnemonic} {ea : Word} {b : Byte} {s : State} (h : s.mem.wf = true) :
    (handled m ea b s).mem.wf = true := by
  rw [handled_mem]
  split
  · exact Memory.write_wf h ..
  · exact h

theorem step_sound {s t : State} (hs : s.Sound) (h : step s = .next t) : t.Sound := by
  obtain ⟨_, rfl⟩ | ⟨hr, i, ea, b, rfl⟩ | ⟨_, kind, rfl⟩ := eq_of_step h
  · exact hs
  · have hna : s.run ≠ .aborted := by simp [hr]
    exact .of_not_aborted (handled_mem_wf hs.1) ((handled_abort ..).trans (hs.abort_eq_none hna)) (handled_run_ne_aborted hna)
  · exact ⟨hs.1, by simp [abortedAt]⟩

/-- Settles O43: a handler keeps the canonical form and ABORT and does not abort; an abort writes RUN and ABORT together. -/
theorem stepKeepsSound : Obligations.StepKeepsSound := by
  unfold Obligations.StepKeepsSound
  exact fun _ _ => step_sound

/-- P after a step: as it was, or SetZN of some byte. -/
theorem step_p_cases {s t : State} (h : step s = .next t) : t.p = s.p ∨ ∃ v, t.p = s.p.setZN v := by
  obtain ⟨_, rfl⟩ | ⟨_, i, ea, b, rfl⟩ | ⟨_, _, rfl⟩ := eq_of_step h
  · exact .inl rfl
  · exact handled_p_cases i.mnemonic ea b s.preAdvance
  · exact .inl rfl

theorem step_sp {s t : State} (h : step s = .next t) : t.sp = s.sp := by
  obtain ⟨_, rfl⟩ | ⟨_, i, ea, b, rfl⟩ | ⟨_, _, rfl⟩ := eq_of_step h
  · rfl
  · exact handled_sp i.mnemonic ea b s.preAdvance
  · rfl

theorem flags_setZN_z_and_n (f : Flags) (v : Byte) : ((f.setZN v).z && (f.setZN v).n) = false := by
  simpa [-flags_setZN_z, -flags_setZN_n] using flags_setZN_not_zero_and_negative f v

/-- What holds from Reset on is kept where SP and the six other flags are, and Zero and Negative are kept or set by SetZN. -/
theorem State.ResetHeld.of_p {s t : State} (hs : s.ResetHeld) (hsp : t.sp = s.sp) (hp : t.p = s.p ∨ ∃ v, t.p = s.p.setZN v) :
    t.ResetHeld := by
  rw [State.ResetHeld, hsp]
  obtain hp | ⟨v, hp⟩ := hp
  · rw [hp]
    exact hs
  · obtain ⟨hsp, hc, hi, hd, hb, hu, hv, _⟩ := hs
    rw [hp]
    exact ⟨hsp, hc, hi, hd, hb, hu, hv, flags_setZN_z_and_n s.p v⟩

theorem step_resetHeld {s t : State} (hs : s.ResetHeld) (h : step s = .next t) : t.ResetHeld :=
  hs.of_p (step_sp h) (step_p_cases h)

/-- Settles O44: a step keeps SP, and keeps P or applies SetZN to it. -/
theorem stepKeepsResetHeldState : Obligations.StepKeepsResetHeldState := by
  unfold Obligations.StepKeepsResetHeldState
  exact fun _ _ => step_resetHeld

end Sys2Proof.Machine

namespace Sys2Proof.Machine

/-! ## The two resolvers (R100 to R111) -/

/-- The 16-bit read at PC is the operand `hi : lo` where the two bytes stand at PC, with the same abort (R44, R105). -/
theorem Engine.read16_pc (s : State) :
    Engine.read16 s s.pc = s.operand16 (hiLo (s.mem.read (s.pc + 1)) (s.mem.read s.pc)) := by
  by_cases h : s.pc = Config.read16Top <;> simp [Engine.read16, State.operand16, Memory.read16, h]

/-- Over operand bytes that stand at PC the engine's resolver, which reads them itself, answers what the model's does. -/
theorem Engine.resolveMode_eq_resolve {s : State} {o : Operand}
    (h : o.bytes = [s.mem.read s.pc, s.mem.read (s.pc + 1)].take o.mode.operandBytes) :
    Engine.resolveMode o.mode s = s.resolve o := by
  cases o with
  | implicit => rfl
  | immediate d8 | zeroPage d8 | zeroPageX d8 | zeroPageY d8 | indirectX d8 | indirectY d8 =>
    obtain rfl := List.singleton_inj.1 h
    rfl
  | absolute w | absoluteX w | absoluteY w =>
    obtain rfl := bytes_of_word_eq_iff.1 h
    simp only [Operand.mode, Engine.resolveMode, Engine.read16_pc]
    rfl

/-- For the fetched instruction, with PC past the opcode byte, the two resolvers answer alike. -/
theorem Engine.resolveMode_of_fetched {s : State} {i : Instr} (hf : s.fetchInstr = some i) :
    Engine.resolveMode i.mode s.preAdvance = s.preAdvance.resolve i.operand := by
  have hnext : s.pc + 1 + 1 = s.pc + 2 := by rw [BitVec.add_assoc]; rfl
  refine Engine.resolveMode_eq_resolve ?_
  rw [preAdvance_pc, preAdvance_mem, hnext]
  exact (fetchInstr_eq_some_iff.1 hf).2

/-! ## Execute over a row (R80) -/

theorem Engine.execute_congr {d d' : Descriptor} (hm : d.mnemonic = d'.mnemonic) (hmode : d.mode = d'.mode)
    (hlen : d.length = d'.length) (op : Byte) (opaddr : Word) (s : State) :
    Engine.execute d op opaddr s = Engine.execute d' op opaddr s := by
  simp only [Engine.execute, hm, hmode, hlen]

theorem Engine.address_of_ne_implicit {mode : Mode} (h : mode ≠ .implicit) (s : State) :
    Engine.address mode s = (Engine.resolveMode mode s).map some := if_neg h

theorem Engine.execute_of_address_error {d : Descriptor} {s : State} {kind : AbortKind} (hb : d.mnemonic ≠ .brk)
    (ha : Engine.address d.mode s = .error kind) (op : Byte) (opaddr : Word) :
    Engine.execute d op opaddr s = s.raise kind op opaddr := by
  simp only [Engine.execute, if_neg hb, ha]

theorem Engine.execute_of_handler_error {d : Descriptor} {s : State} {ea : Option Word} {kind : AbortKind}
    (hb : d.mnemonic ≠ .brk) (ha : Engine.address d.mode s = .ok ea) (hh : Engine.handler d.mnemonic ea s = .error kind)
    (op : Byte) (opaddr : Word) : Engine.execute d op opaddr s = s.raise kind op opaddr := by
  simp only [Engine.execute, if_neg hb, ha, hh]

/-- The engine's handler of a mnemonic is the model's, whose operand byte is the one at the address. -/
theorem Engine.handler_eq_handled {m : Mnemonic} {ea : Option Word} (h : m.needsAddress = true → ∃ w, ea = some w) (s : State) :
    Engine.handler m ea s = .ok (handled m (ea.getD 0) (s.memRead (ea.getD 0)) s) := by
  cases m with
  | tax | inx | brk => rfl
  | lda | ldx | ldy | sta | stx | sty | adc =>
    obtain ⟨w, rfl⟩ := h rfl
    rfl

/-- Inside the window the engine's address is the abort (R205). -/
theorem Engine.address_in_window {s : State} {i : Instr} (hf : s.fetchInstr = some i) (hw : s.inWindow i = true) :
    Engine.address i.mode s.preAdvance = .error .read16Window := by
  obtain ⟨ha, hpc⟩ := inWindow_iff.1 hw
  have hne : i.mode ≠ .implicit := by
    intro e
    simp [e, Mode.isAbsolute] at ha
  rw [Engine.address_of_ne_implicit hne, Engine.resolveMode_of_fetched hf, resolve_window _ _ ha ((preAdvance_at_top s).2 hpc)]
  rfl

/-- Outside the window the engine's address is there, and is the model's wherever the mnemonic needs one. -/
theorem Engine.exists_address {s : State} {i : Instr} (hf : s.fetchInstr = some i) (hw : s.inWindow i = false) :
    ∃ ea, Engine.address i.mode s.preAdvance = .ok ea ∧
      (i.mnemonic.needsAddress = true → ∃ w, ea = some w ∧ s.preAdvance.resolve i.operand = .ok w) := by
  by_cases hi : i.mode = .implicit
  · exact ⟨none, if_pos hi, fun hn => absurd hi ((needsAddress_iff i).1 hn)⟩
  · obtain ⟨w, _, hr, _⟩ := exec_of_address i s ((needsAddress_iff i).2 hi) hw
    refine ⟨some w, ?_, fun _ => ⟨w, rfl, hr⟩⟩
    rw [Engine.address_of_ne_implicit hi, Engine.resolveMode_of_fetched hf, hr]
    rfl

/-- The step of the fetched instruction is the engine's execution of a row with its mnemonic, mode and length. -/
theorem exec_eq_execute {s : State} {i : Instr} (hf : s.fetchInstr = some i) (cycles : Nat) :
    exec i s = .next (Engine.execute ⟨i.mnemonic, i.mode, i.length, cycles⟩ (s.mem.read s.pc) s.pc s.preAdvance) := by
  by_cases hb : i.mnemonic = .brk
  · cases eq_brk_of_mnemonic hb
    rfl
  cases hw : s.inWindow i with
  | true =>
    rw [exec_in_window i s hw, Engine.execute_of_address_error hb (Engine.address_in_window hf hw),
      (fetchInstr_eq_some_iff.1 hf).1]
  | false =>
    obtain ⟨ea, haddr, hea⟩ := Engine.exists_address hf hw
    have hhand := Engine.handler_eq_handled (fun hn => (hea hn).imp fun _ h => h.1) s.preAdvance
    have hres : i.mnemonic.needsAddress = true → s.preAdvance.resolve i.operand = .ok (ea.getD 0) ∧
        s.preAdvance.operandByte i.operand = .ok (s.mem.read (ea.getD 0)) := by
      intro hn
      obtain ⟨w, rfl, hr⟩ := hea hn
      exact ⟨hr, operandByte_of_fetched hf hr⟩
    rw [exec_of_resolved hres, Engine.execute_of_handler hb haddr hhand, autoAdvance_of_eq (handled_pc ..), handled_pc,
      preAdvance_pc, Instr.length, pc_two_advances]
    rfl

theorem Engine.step_of_no_row {table : Byte → Option Descriptor} {s : State} (hr : s.run = .running)
    (ht : table (s.mem.read s.pc) = none) :
    Engine.step table s = Stated.abortedAt s .unknownOpcode (s.mem.read s.pc) := by
  simp only [Engine.step, hr, if_true, memRead_eq, ht]
  rfl

theorem Engine.step_of_stopped {table : Byte → Option Descriptor} {s : State} (hr : s.run ≠ .running) :
    Engine.step table s = s := if_neg hr

/-- Settles O8: the fetched instruction has the row that the engine looks up, and the row's execution is the instruction's step. -/
theorem stepIsTheSpecEngine : Obligations.StepIsTheSpecEngine := by
  unfold Obligations.StepIsTheSpecEngine
  intro s
  obtain ⟨i, hr, hf, he⟩ | ⟨hr, hf, he⟩ | ⟨hr, he⟩ := step_cases s
  · obtain ⟨⟨_, _, _, cycles⟩, hd, rfl, rfl, rfl⟩ := exists_row_of_decodeWindow hf
    rw [he, exec_eq_execute hf cycles, Engine.step_of_row hr hd]
  · rw [he, Engine.step_of_no_row hr (fetchInstr_eq_none_iff.1 hf)]
    rfl
  · rw [he, Engine.step_of_stopped hr]

/-! ## The aborts (R201, R202, R205) -/

/-- A byte without a row: the only access of the step is the opcode fetch. -/
theorem busAccesses_without_row {s : State} (hr : s.run = .running) (hf : s.fetchInstr = none) :
    busAccesses s = [.read s.pc (s.mem.read s.pc)] := by
  simp only [busAccesses, hr, hf, State.readAccess, memRead_eq]

theorem instrAccesses_in_window {s : State} {i : Instr} (hw : s.inWindow i = true) : s.instrAccesses i = [] := by
  obtain ⟨ha, hpc⟩ := inWindow_iff.1 hw
  simp only [State.instrAccesses, resolve_window _ _ ha ((preAdvance_at_top s).2 hpc), ite_self]

/-- A running step with a fetched instruction: the opcode fetch, then the accesses of the instruction (R59). -/
theorem busAccesses_of_fetched {s : State} {i : Instr} (hr : s.run = .running) (hf : s.fetchInstr = some i) :
    busAccesses s = .read s.pc (s.mem.read s.pc) :: s.instrAccesses i := by
  simp only [busAccesses, hr, hf, State.readAccess, memRead_eq]

/-- Settles O11: over any table the engine aborts before it decodes further; on the block's table nothing is fetched as an
instruction. -/
theorem byteWithoutRowAbortsUnknownOpcode : Obligations.ByteWithoutRowAbortsUnknownOpcode := by
  unfold Obligations.ByteWithoutRowAbortsUnknownOpcode
  refine ⟨fun table s => Engine.step_of_no_row, fun s hr hd => ?_, count_bytes_without_row⟩
  have hf := fetchInstr_eq_none_iff.2 hd
  exact ⟨step_without_row hr hf, busAccesses_without_row hr hf⟩

/-- Settles O12: the byte's row is that of the fetched instruction, which is in the window. -/
theorem absoluteFormAtFFFEAborts : Obligations.AbsoluteFormAtFFFEAborts := by
  unfold Obligations.AbsoluteFormAtFFFEAborts
  intro s d hr hpc hd ha
  rw [← hpc] at hd ⊢
  obtain ⟨i, hf, _, hmode, _⟩ := exists_decodeWindow_of_row hd (s.mem.read (s.pc + 1)) (s.mem.read (s.pc + 2))
  have hf : s.fetchInstr = some i := hf
  have hw : s.inWindow i = true := inWindow_iff.2 ⟨hmode ▸ ha, hpc⟩
  have htop : (0xFFFF : Word) = s.pc + 1 := by rw [hpc]; rfl
  rw [step_in_window hr hf hw, busAccesses_of_fetched hr hf, instrAccesses_in_window hw, htop]
  exact ⟨rfl, rfl⟩

/-- A handler that needs an address and has none aborts. -/
theorem Engine.handler_none_of_needsAddress {m : Mnemonic} (h : m.needsAddress = true) (s : State) :
    Engine.handler m none s = .error .unsupportedAddressingMode := by
  cases m with
  | lda | ldx | ldy | sta | stx | sty | adc => rfl
  | tax | inx | brk => cases h

/-- The engine's resolver aborts with UnsupportedAddressingMode in mode Implicit alone. -/
theorem Engine.resolveMode_ne_unsupported {mode : Mode} (h : mode ≠ .implicit) (s : State) :
    Engine.resolveMode mode s ≠ .error .unsupportedAddressingMode := by
  have hread : Engine.read16 s s.pc ≠ .error .unsupportedAddressingMode := by
    unfold Engine.read16
    split <;> simp
  cases mode with
  | implicit => exact absurd rfl h
  | immediate | zeroPage | zeroPageX | zeroPageY | indirectX | indirectY => exact nofun
  | absolute => exact hread
  | absoluteX | absoluteY =>
    revert hread
    simp only [Engine.resolveMode]
    cases Engine.read16 s s.pc <;> simp [bind, Except.bind, pure, Except.pure]

end Sys2Proof.Machine

namespace Sys2Proof.Machine

/-! ## Where UnsupportedAddressingMode comes from (R202) -/

/-- The resolution part of the engine's step aborts with UnsupportedAddressingMode in no mode. -/
theorem Engine.address_ne_unsupported (mode : Mode) (s : State) : Engine.address mode s ≠ .error .unsupportedAddressingMode := by
  by_cases h : mode = .implicit
  · rw [Engine.address, if_pos h]
    exact nofun
  · have hres := Engine.resolveMode_ne_unsupported h s
    rw [Engine.address_of_ne_implicit h]
    cases hm : Engine.resolveMode mode s with
    | error kind => exact fun e => hres (by rw [hm, Except.error.inj e])
    | ok ea => exact nofun

theorem Engine.address_eq_none_iff {mode : Mode} {s : State} : Engine.address mode s = .ok none ↔ mode = .implicit := by
  by_cases h : mode = .implicit
  · simp [Engine.address, h]
  · rw [Engine.address_of_ne_implicit h]
    cases Engine.resolveMode mode s <;> simp [Except.map, h]

/-- Where the execution of a row can end Aborted: in the resolver, or in a handler that lacks its address. -/
theorem Engine.execute_aborted {d : Descriptor} {op : Byte} {opaddr : Word} {s : State} (hr : s.run = .running)
    (h : (Engine.execute d op opaddr s).run = .aborted) :
    (∃ kind, Engine.address d.mode s = .error kind ∧ Engine.execute d op opaddr s = s.raise kind op opaddr) ∨
      (d.mnemonic.needsAddress = true ∧ d.mode = .implicit) := by
  have hna : s.run ≠ .aborted := by simp [hr]
  by_cases hb : d.mnemonic = .brk
  · simp [Engine.execute, hb] at h
  cases ha : Engine.address d.mode s with
  | error kind => exact .inl ⟨kind, rfl, Engine.execute_of_address_error hb ha op opaddr⟩
  | ok ea =>
    by_cases hea : d.mnemonic.needsAddress = true → ∃ w, ea = some w
    · rw [Engine.execute_of_handler hb ha (Engine.handler_eq_handled hea s), autoAdvance_run] at h
      exact absurd h (handled_run_ne_aborted hna)
    · obtain ⟨hn, hnone⟩ := Classical.not_imp.1 hea
      cases ea with
      | some w => exact absurd ⟨w, rfl⟩ hnone
      | none => exact .inr ⟨hn, Engine.address_eq_none_iff.1 ha⟩

/-- Settles O13: no resolver that the engine enters answers this abort, and no row of the block's table lacks its address. -/
theorem handlerWithoutAddressAbortsUnsupportedMode : Obligations.HandlerWithoutAddressAbortsUnsupportedMode := by
  unfold Obligations.HandlerWithoutAddressAbortsUnsupportedMode
  refine ⟨fun table s d hr hd hn hi => ?_, fun s => ⟨rfl, rfl⟩, fun table s op opaddr hr habt hrec => ?_, fun b d hd => ?_⟩
  · have hb : d.mnemonic ≠ .brk := by
      intro e
      simp [e, Mnemonic.needsAddress] at hn
    rw [Engine.step_of_row hr hd, Engine.execute_of_handler_error hb (Engine.address_eq_none_iff.2 hi)
      (Engine.handler_none_of_needsAddress hn _)]
    rfl
  · cases hd : table (s.mem.read s.pc) with
    | none =>
      rw [Engine.step_of_no_row hr hd] at hrec
      cases hrec
    | some d =>
      rw [Engine.step_of_row hr hd] at habt hrec
      obtain ⟨kind, ha, he⟩ | hmode := Engine.execute_aborted (s := s.preAdvance) hr habt
      · rw [he] at hrec
        cases hrec
        exact (Engine.address_ne_unsupported _ _ ha).elim
      · exact ⟨d, rfl, hmode⟩
  · obtain ⟨r, hr, _, rfl⟩ := exists_row_of_lookupRow hd
    have hserves := (opcodeTable_rows_wf r hr).2
    rintro ⟨hn, hi⟩
    simp [Descriptor.modeServesHandler, hn, hi] at hserves

/-- Settles O15: the engine looks the byte up once, and executes a row by its mnemonic, mode and length. -/
theorem cyclesAreReadByNothing : Obligations.CyclesAreReadByNothing := by
  unfold Obligations.CyclesAreReadByNothing
  intro table table' s h
  by_cases hr : s.run = .running
  · have hrow := h (s.mem.read s.pc)
    cases hd : table (s.mem.read s.pc) with
    | none =>
      have hd' : table' (s.mem.read s.pc) = none := by simpa [hd, eq_comm] using hrow
      rw [Engine.step_of_no_row hr hd, Engine.step_of_no_row hr hd']
    | some d =>
      obtain ⟨d', hd', hm, hmode, hlen⟩ : ∃ d', table' (s.mem.read s.pc) = some d' ∧ d'.mnemonic = d.mnemonic ∧
          d'.mode = d.mode ∧ d'.length = d.length := by simpa [hd, eq_comm] using hrow
      rw [Engine.step_of_row hr hd, Engine.step_of_row hr hd', Engine.execute_congr hm hmode hlen]
  · rw [Engine.step_of_stopped hr, Engine.step_of_stopped hr]

/-- Settles O16: a stopped machine makes no step, and the other transactions write memory alone. -/
theorem stoppedMachineStaysUntilReset : Obligations.StoppedMachineStaysUntilReset := by
  unfold Obligations.StoppedMachineStaysUntilReset
  intro s hr
  refine ⟨step_of_stopped hr, runSteps_of_stopped hr, fun tr t htr h => ?_⟩
  cases tr with
  | load image =>
    obtain ⟨m, rfl⟩ := load_next h
    exact ⟨rfl, rfl⟩
  | reset => exact absurd rfl htr
  | step =>
    cases (step_of_stopped hr).symm.trans h
    exact ⟨rfl, rfl⟩
  | run fuel =>
    cases (runSteps_of_stopped hr fuel).symm.trans h
    exact ⟨rfl, rfl⟩
  | rawRead | rawWrite | inspect =>
    cases h
    exact ⟨rfl, rfl⟩

end Sys2Proof.Machine

namespace Sys2Proof.Machine

/-! ## Effective addresses (R101 to R107) -/

theorem zext16_add_toNat (d v : Byte) : (zext16 (d + v)).toNat = (d.toNat + v.toNat) % 256 := by
  rw [zext16_toNat, BitVec.toNat_add]

theorem hiLo_add_zext16_toNat (hi lo v : Byte) :
    (hiLo hi lo + zext16 v).toNat = (hi.toNat * 256 + lo.toNat + v.toNat) % 65536 := by
  rw [BitVec.toNat_add, hiLo_toNat, zext16_toNat]

/-- No store has mode Immediate (R114). -/
theorem isStore_of_immediate {i : Instr} (h : i.mode = .immediate) : i.mnemonic.isStore = false := by
  cases i <;> cases h <;> rfl

/-- Only LDX and STX have mode ZeroPage_Y (R104, R114). -/
theorem mnemonic_of_zeroPageY {i : Instr} (h : i.mode = .zeroPageY) : i.mnemonic = .ldx ∨ i.mnemonic = .stx := by
  cases i <;> cases h <;> simp [Instr.mnemonic]

/-- Settles O24: both resolvers answer the same term, whose number is that of the operand byte or of the sum; the mode sets are read
off the 42 forms. -/
theorem immediateAndZeroPageAddresses : Obligations.ImmediateAndZeroPageAddresses := by
  unfold Obligations.ImmediateAndZeroPageAddresses
  constructor
  · rintro s d8 rfl
    exact ⟨_, _, _, ⟨rfl, rfl⟩, ⟨rfl, rfl, zext16_toNat _⟩, ⟨rfl, rfl, zext16_add_toNat ..⟩, ⟨rfl, rfl, zext16_add_toNat ..⟩⟩
  · exact fun i => ⟨isStore_of_immediate, mnemonic_of_zeroPageY⟩

theorem operand16_of_ne {s : State} (h : s.pc ≠ 0xFFFF) (w : Word) : s.operand16 w = .ok w := if_neg h

theorem operand16_at_top {s : State} (h : s.pc = 0xFFFF) (w : Word) : s.operand16 w = .error .read16Window := if_pos h

theorem resolve_absolute {s : State} (h : s.pc ≠ 0xFFFF) (w : Word) : s.resolve (.absolute w) = .ok w := operand16_of_ne h w

theorem resolve_absoluteX {s : State} (h : s.pc ≠ 0xFFFF) (w : Word) : s.resolve (.absoluteX w) = .ok (w + zext16 s.x) := by
  rw [State.resolve, operand16_of_ne h]
  rfl

theorem resolve_absoluteY {s : State} (h : s.pc ≠ 0xFFFF) (w : Word) : s.resolve (.absoluteY w) = .ok (w + zext16 s.y) := by
  rw [State.resolve, operand16_of_ne h]
  rfl

/-- The engine's resolver over the two bytes at PC, in an absolute mode. -/
theorem Engine.resolveMode_of_word {s : State} {lo hi : Byte} (o : Operand) (hlo : s.mem.read s.pc = lo)
    (hhi : s.mem.read (s.pc + 1) = hi) (ho : o.bytes = [lo, hi]) (h2 : o.mode.operandBytes = 2) :
    Engine.resolveMode o.mode s = s.resolve o :=
  Engine.resolveMode_eq_resolve (by rw [ho, h2, hlo, hhi]; rfl)

theorem Engine.resolveMode_at_top {s : State} {mode : Mode} (h : s.pc = 0xFFFF) (ha : mode.isAbsolute = true) :
    Engine.resolveMode mode s = .error .read16Window := by
  have hread : Engine.read16 s s.pc = .error .read16Window := by rw [Engine.read16_pc, operand16_at_top h]
  cases mode with
  | absolute => exact hread
  | absoluteX | absoluteY =>
    simp only [Engine.resolveMode, hread]
    rfl
  | implicit | immediate | zeroPage | zeroPageX | zeroPageY | indirectX | indirectY => cases ha

/-- Settles O25: outside the window the two resolvers agree on the two bytes at PC; at 0xFFFF the one 16-bit read of each aborts. -/
theorem absoluteAddresses : Obligations.AbsoluteAddresses := by
  unfold Obligations.AbsoluteAddresses
  intro s lo hi hlo hhi
  refine ⟨fun h => ?_, fun h => ⟨fun w => ?_, fun mode => Engine.resolveMode_at_top h⟩⟩
  · have hbytes : [loByte (hiLo hi lo), hiByte (hiLo hi lo)] = [lo, hi] := bytes_of_word_eq_iff.2 rfl
    have hw := resolve_absolute h (hiLo hi lo)
    have hwx := resolve_absoluteX h (hiLo hi lo)
    have hwy := resolve_absoluteY h (hiLo hi lo)
    exact ⟨_, _, _,
      ⟨hw, (Engine.resolveMode_of_word (.absolute _) hlo hhi hbytes rfl).trans hw, hiLo_toNat hi lo⟩,
      ⟨hwx, (Engine.resolveMode_of_word (.absoluteX _) hlo hhi hbytes rfl).trans hwx, hiLo_add_zext16_toNat ..⟩,
      ⟨hwy, (Engine.resolveMode_of_word (.absoluteY _) hlo hhi hbytes rfl).trans hwy, hiLo_add_zext16_toNat ..⟩⟩
  · exact ⟨resolve_window s (.absolute w) rfl h, resolve_window s (.absoluteX w) rfl h, resolve_window s (.absoluteY w) rfl h⟩

end Sys2Proof.Machine

namespace Sys2Proof.Machine

open Stated

/-! ## Operands of the absolute forms outside the window (R105 to R107) -/

theorem preAdvance_pc_ne_top {s : State} (h : s.pc ≠ 0xFFFE) : s.preAdvance.pc ≠ 0xFFFF := mt (preAdvance_at_top s).1 h

theorem resolve_absolute_of_ne {s : State} (h : s.pc ≠ 0xFFFE) (w : Word) : s.preAdvance.resolve (.absolute w) = .ok w :=
  resolve_absolute (preAdvance_pc_ne_top h) w

theorem resolve_absoluteX_of_ne {s : State} (h : s.pc ≠ 0xFFFE) (w : Word) :
    s.preAdvance.resolve (.absoluteX w) = .ok (w + zext16 s.x) :=
  resolve_absoluteX (preAdvance_pc_ne_top h) w

theorem resolve_absoluteY_of_ne {s : State} (h : s.pc ≠ 0xFFFE) (w : Word) :
    s.preAdvance.resolve (.absoluteY w) = .ok (w + zext16 s.y) :=
  resolve_absoluteY (preAdvance_pc_ne_top h) w

/-! ## Each form's whole step -/

/-- A form of an absolute mode aborts in the window; what is left to show is its step outside it (R205). -/
theorem Stated.FormOutsideWindow.of_exec {op b1 b2 : Byte} {i : Instr} {s t : State} (hd : decodeWindow op b1 b2 = some i)
    (ha : i.mode.isAbsolute = true) (ht : s.pc ≠ 0xFFFE → exec i s = .next t) : FormOutsideWindow op b1 b2 i s t := by
  refine ⟨hd, ht, fun hpc => ?_⟩
  rw [exec_in_window i s (inWindow_iff.2 ⟨ha, hpc⟩), (decodeWindow_eq_some_iff.1 hd).1]
  rfl

/-- Settles O27: each form is the LDA handler on the operand byte of its mode. -/
theorem ldaFormsLoadA : Obligations.LdaFormsLoadA := by
  unfold Obligations.LdaFormsLoadA
  intro s b1 b2
  exact ⟨⟨rfl, exec_of_resolve rfl⟩, ⟨rfl, exec_of_resolve rfl⟩, ⟨rfl, exec_of_resolve rfl⟩,
    .of_exec rfl rfl fun h => exec_of_resolve (resolve_absolute_of_ne h _),
    .of_exec rfl rfl fun h => exec_of_resolve (resolve_absoluteX_of_ne h _),
    .of_exec rfl rfl fun h => exec_of_resolve (resolve_absoluteY_of_ne h _),
    ⟨rfl, exec_of_resolve rfl⟩, ⟨rfl, exec_of_resolve rfl⟩⟩

/-- Settles O28: each form is the LDX handler on the operand byte of its mode. -/
theorem ldxFormsLoadX : Obligations.LdxFormsLoadX := by
  unfold Obligations.LdxFormsLoadX
  intro s b1 b2
  exact ⟨⟨rfl, exec_of_resolve rfl⟩, ⟨rfl, exec_of_resolve rfl⟩, ⟨rfl, exec_of_resolve rfl⟩,
    .of_exec rfl rfl fun h => exec_of_resolve (resolve_absolute_of_ne h _),
    .of_exec rfl rfl fun h => exec_of_resolve (resolve_absoluteY_of_ne h _)⟩

/-- Settles O29: each form is the LDY handler on the operand byte of its mode. -/
theorem ldyFormsLoadY : Obligations.LdyFormsLoadY := by
  unfold Obligations.LdyFormsLoadY
  intro s b1 b2
  exact ⟨⟨rfl, exec_of_resolve rfl⟩, ⟨rfl, exec_of_resolve rfl⟩, ⟨rfl, exec_of_resolve rfl⟩,
    .of_exec rfl rfl fun h => exec_of_resolve (resolve_absolute_of_ne h _),
    .of_exec rfl rfl fun h => exec_of_resolve (resolve_absoluteX_of_ne h _)⟩

/-- Settles O30: each form is the STA handler at the address of its mode. -/
theorem staFormsStoreA : Obligations.StaFormsStoreA := by
  unfold Obligations.StaFormsStoreA
  intro s b1 b2
  exact ⟨⟨rfl, exec_of_resolve rfl⟩, ⟨rfl, exec_of_resolve rfl⟩,
    .of_exec rfl rfl fun h => exec_of_resolve (resolve_absolute_of_ne h _),
    .of_exec rfl rfl fun h => exec_of_resolve (resolve_absoluteX_of_ne h _),
    .of_exec rfl rfl fun h => exec_of_resolve (resolve_absoluteY_of_ne h _),
    ⟨rfl, exec_of_resolve rfl⟩, ⟨rfl, exec_of_resolve rfl⟩⟩

/-- Settles O31: each form is the STX or the STY handler at the address of its mode. -/
theorem stxAndStyFormsStore : Obligations.StxAndStyFormsStore := by
  unfold Obligations.StxAndStyFormsStore
  intro s b1 b2
  exact ⟨⟨rfl, exec_of_resolve rfl⟩, ⟨rfl, exec_of_resolve rfl⟩,
    .of_exec rfl rfl fun h => exec_of_resolve (resolve_absolute_of_ne h _),
    ⟨rfl, exec_of_resolve rfl⟩, ⟨rfl, exec_of_resolve rfl⟩,
    .of_exec rfl rfl fun h => exec_of_resolve (resolve_absolute_of_ne h _)⟩

/-- Settles O32: each form is the ADC step on the operand byte of its mode. -/
theorem adcFormsAddWithoutCarry : Obligations.AdcFormsAddWithoutCarry := by
  unfold Obligations.AdcFormsAddWithoutCarry
  intro s b1 b2
  exact ⟨⟨rfl, exec_of_resolve rfl⟩, ⟨rfl, exec_of_resolve rfl⟩, ⟨rfl, exec_of_resolve rfl⟩,
    .of_exec rfl rfl fun h => exec_of_resolve (resolve_absolute_of_ne h _),
    .of_exec rfl rfl fun h => exec_of_resolve (resolve_absoluteX_of_ne h _),
    .of_exec rfl rfl fun h => exec_of_resolve (resolve_absoluteY_of_ne h _),
    ⟨rfl, exec_of_resolve rfl⟩, ⟨rfl, exec_of_resolve rfl⟩⟩

/-! ## The forms of mode Implicit (R172, R195) -/

theorem decodeWindow_brk (b1 b2 : Byte) : decodeWindow 0x00 b1 b2 = some .brk := rfl

/-- Settles O34: the step of BRK is the pre-advance and the halt, and its accesses are those of an instruction without an address. -/
theorem brkOnlyHalts : Obligations.BrkOnlyHalts := by
  unfold Obligations.BrkOnlyHalts
  intro s b1 b2
  refine ⟨⟨decodeWindow_brk b1 b2, exec_brk s⟩, fun hr hop => ?_⟩
  rw [busAccesses_of_implicit hr (fetchInstr_of_opcode hop decodeWindow_brk) rfl, hop]

theorem eq_of_mode_implicit {i : Instr} (h : i.mode = .implicit) : i = .brk ∨ i = .tax ∨ i = .inx := by
  cases i <;> cases h <;> simp

/-- Settles O38: of the three forms each step is one record update, of X and SetZN or of RUN. -/
theorem frameOfTheImplicitForms : Obligations.FrameOfTheImplicitForms := by
  unfold Obligations.FrameOfTheImplicitForms
  intro i s hi
  obtain rfl | rfl | rfl := eq_of_mode_implicit hi
  · exact ⟨_, exec_brk s, rfl, rfl, rfl, rfl, .of_p_eq rfl, fun _ => rfl, rfl, fun _ => ⟨rfl, rfl, rfl⟩, fun h => absurd rfl h⟩
  · exact ⟨_, exec_tax s, rfl, rfl, rfl, rfl, .of_p_setZN rfl, fun _ => rfl, rfl, nofun, fun _ => ⟨.of_p_setZN rfl, rfl⟩⟩
  · exact ⟨_, exec_inx s, rfl, rfl, rfl, rfl, .of_p_setZN rfl, fun _ => rfl, rfl, nofun, fun _ => ⟨.of_p_setZN rfl, rfl⟩⟩

/-- `k` steps of INX add `k` to X modulo 256 (R171). -/
theorem x_of_inx_run {run : Nat → State} (h : ∀ k, exec .inx (run k) = .next (run (k + 1))) (k : Nat) :
    (run k).x = (run 0).x + BitVec.ofNat 8 k := by
  induction k with
  | zero => simp
  | succ k ih =>
    have hx : run (k + 1) = loadedX (run k) ((run k).x + 1) 1 := Host.Outcome.next.inj ((h k).symm.trans (exec_inx _))
    rw [hx, BitVec.ofNat_add, ← BitVec.add_assoc, ← ih]
    rfl

/-- Settles O39: 256 is 0 and 128 is 0x80 modulo 256. -/
theorem inx256TimesReturnsX : Obligations.Inx256TimesReturnsX := by
  unfold Obligations.Inx256TimesReturnsX
  intro run h
  refine ⟨?_, x_of_inx_run h 128⟩
  rw [x_of_inx_run h 256]
  exact BitVec.add_zero _

/-! ## Who writes what (R11 to R15, R92) -/

/-- Settles O40: the abort writes RUN, ABORT and PC; outside the window each field is as the frame of the handler has it. -/
theorem onlyTheNamedInstructionsWrite : Obligations.OnlyTheNamedInstructionsWrite := by
  unfold Obligations.OnlyTheNamedInstructionsWrite
  intro i s
  obtain ⟨hw, he⟩ | ⟨hw, ea, b, _, he⟩ := exec_cases i s
  · exact ⟨_, he, rfl, absurd rfl, absurd rfl, absurd rfl, absurd rfl, fun _ => .inr hw, fun _ => hw, by rw [hw]; rfl⟩
  · refine ⟨_, he, handled_sp .., fun ha => ?_, fun hx => ?_, fun hy => ?_, fun hm => ?_, fun hr => .inl ?_,
      absurd (handled_abort ..), by rw [hw]; rfl⟩ <;> by_contra hne
    · obtain ⟨hlda, hadc⟩ := not_or.1 hne
      exact ha (handled_a_of_ne _ _ _ _ hlda hadc)
    · obtain ⟨hldx, htax, hinx⟩ : _ ∧ _ ∧ _ := by simpa only [not_or] using hne
      exact hx (handled_x_of_ne _ _ _ _ hldx htax hinx)
    · exact hy (handled_y_of_ne _ _ _ _ hne)
    · exact hm ((handled_mem ..).trans (if_neg hne))
    · exact hr (handled_run_of_ne_brk _ _ _ _ hne)

end Sys2Proof.Machine

namespace Sys2Proof.Machine

/-! ## The raw byte of P (R16, R28; decision D2) -/

/-- The flag at a bit position of the raw byte. -/
def Flags.bit (f : Flags) : Nat → Bool
  | 0 => f.c
  | 1 => f.z
  | 2 => f.i
  | 3 => f.d
  | 4 => f.b
  | 5 => f.u
  | 6 => f.v
  | 7 => f.n
  | _ => false

theorem flagMask_getLsbD (set : Bool) (mask : Byte) (k : Nat) : (flagMask set mask).getLsbD k = (set && mask.getLsbD k) := by
  cases set <;> simp [flagMask]

/-- Each bit of the raw byte is its flag: the eight masks are eight different bits. -/
theorem Flags.toByte_getLsbD (f : Flags) {k : Nat} (hk : k < 8) : f.toByte.getLsbD k = f.bit k := by
  simp only [Flags.toByte, BitVec.getLsbD_or, flagMask_getLsbD]
  interval_cases k <;> simp [Flags.bit]

/-- Two raw bytes are equal where their eight bits are. -/
theorem toByte_eq_of_bits {f : Flags} {w : Byte} (h : ∀ k < 8, f.bit k = w.getLsbD k) : f.toByte = w :=
  BitVec.eq_of_getLsbD_eq fun k hk => (f.toByte_getLsbD hk).trans (h k hk)

theorem Flags.ofByte_toByte (f : Flags) : Flags.ofByte f.toByte = f := by
  simp only [Flags.ofByte, Flags.toByte_getLsbD, Nat.reduceLT, Flags.bit]

theorem Flags.toByte_ofByte (v : Byte) : (Flags.ofByte v).toByte = v := by
  refine toByte_eq_of_bits fun k hk => ?_
  interval_cases k <;> rfl

theorem Flags.toByte_reset : Flags.reset.toByte = 0x24 := by decide

theorem Flags.toByte_setZN (f : Flags) (v : Byte) :
    (f.setZN v).toByte = (f.toByte &&& 0x7D) ||| (if v = 0x00 then 0x02 else 0x00) ||| (v &&& 0x80) := by
  refine toByte_eq_of_bits fun k hk => ?_
  rw [BitVec.getLsbD_or, BitVec.getLsbD_or, BitVec.getLsbD_and, BitVec.getLsbD_and, f.toByte_getLsbD hk]
  by_cases hv : v = 0#8 <;> interval_cases k <;> simp [Flags.bit, hv]

/-- Settles O18: the raw byte is its eight bits, of which SetZN replaces bits 1 and 7. -/
theorem rawByteOfFlags : Obligations.RawByteOfFlags := by
  unfold Obligations.RawByteOfFlags
  exact ⟨Flags.toByte_setZN, Flags.toByte_reset, Flags.ofByte_toByte, Flags.toByte_ofByte⟩

/-! ## What no step reads: flags (R27) and SP (R14) -/

/-- In two states alike but for P, SP, RUN and ABORT an instruction does the same: the abort of the window in both, or one handler on
one address and one operand byte. -/
theorem exec_cases_of_same {s s' : State} (hx : s'.x = s.x) (hy : s'.y = s.y) (hpc : s'.pc = s.pc) (hm : s'.mem = s.mem)
    (i : Instr) :
    (s.inWindow i = true ∧ exec i s = .next (s.preAdvance.raise .read16Window i.opcode s.pc) ∧
      exec i s' = .next (s'.preAdvance.raise .read16Window i.opcode s.pc)) ∨
    (s.inWindow i = false ∧ ∃ ea b,
      exec i s = .next ((handled i.mnemonic ea b s.preAdvance).setPc (s.pc + BitVec.ofNat 16 i.length)) ∧
      exec i s' = .next ((handled i.mnemonic ea b s'.preAdvance).setPc (s.pc + BitVec.ofNat 16 i.length))) := by
  have hpc' : s'.preAdvance.pc = s.preAdvance.pc := congrArg (· + 1) hpc
  obtain ⟨hw, he⟩ | ⟨hw, ea, b, hres, he⟩ := exec_cases i s
  · have hw' : s'.inWindow i = true := by rwa [State.inWindow, hpc]
    exact .inl ⟨hw, he, hpc ▸ exec_in_window i s' hw'⟩
  · rw [← resolve_congr (s := s.preAdvance) (t := s'.preAdvance) i.operand hx hy hpc' hm,
      ← operandByte_congr (s := s.preAdvance) (t := s'.preAdvance) i.operand hx hy hpc' hm] at hres
    exact .inr ⟨hw, ea, b, he, hpc ▸ exec_of_resolved hres⟩

/-- A handler writes the same with any flags, but for the flags it keeps. -/
theorem handled_with_p (m : Mnemonic) (ea : Word) (b : Byte) (s : State) (q : Flags) :
    { handled m ea b { s with p := q } with p := (handled m ea b s).p } = handled m ea b s := by
  cases m <;> rfl

/-- Zero and Negative are written alike whatever the flags were, where a handler writes them. -/
theorem handled_zn_with_p {m : Mnemonic} (hs : m.isStore = false) (hb : m ≠ .brk) (ea : Word) (b : Byte) (s : State) (q : Flags) :
    (handled m ea b { s with p := q }).p.z = (handled m ea b s).p.z ∧
      (handled m ea b { s with p := q }).p.n = (handled m ea b s).p.n := by
  cases m with
  | lda | ldx | ldy | adc | tax | inx => exact ⟨rfl, rfl⟩
  | sta | stx | sty => cases hs
  | brk => exact absurd rfl hb

/-- Settles O20: the two runs make one handler run on one address and one operand byte, and no handler reads a flag. -/
theorem noInstructionReadsAFlag : Obligations.NoInstructionReadsAFlag := by
  unfold Obligations.NoInstructionReadsAFlag
  intro i s q
  obtain ⟨hw, he, he'⟩ | ⟨_, ea, b, he, he'⟩ := exec_cases_of_same (s := s) (s' := { s with p := q }) rfl rfl rfl rfl i
  · exact ⟨_, _, he, he', rfl, fun _ _ h => by simp [hw] at h⟩
  · refine ⟨_, _, he, he', ?_, fun hs hb _ => handled_zn_with_p hs hb ea b s.preAdvance q⟩
    exact congrArg (State.setPc · _) (handled_with_p i.mnemonic ea b s.preAdvance q)

theorem handled_with_sp (m : Mnemonic) (ea : Word) (b : Byte) (s : State) (v : Byte) :
    handled m ea b { s with sp := v } = { handled m ea b s with sp := v } := by
  cases m <;> rfl

/-- An instruction does the same with any SP, which it keeps. -/
theorem exec_with_sp {i : Instr} {s t : State} (h : exec i s = .next t) (v : Byte) :
    exec i { s with sp := v } = .next { t with sp := v } := by
  obtain ⟨_, he, he'⟩ | ⟨_, ea, b, he, he'⟩ := exec_cases_of_same (s := s) (s' := { s with sp := v }) rfl rfl rfl rfl i <;>
    cases h.symm.trans he
  · exact he'
  · rw [he']
    exact congrArg (fun u => Host.Outcome.next (State.setPc u (s.pc + BitVec.ofNat 16 i.length)))
      (handled_with_sp i.mnemonic ea b s.preAdvance v)

/-- Settles O41: fetch does not read SP, and neither does the instruction, the abort or the stopped machine. -/
theorem stackPointerPlaysNoPart : Obligations.StackPointerPlaysNoPart := by
  unfold Obligations.StackPointerPlaysNoPart
  intro s v
  obtain ⟨t, ht⟩ := step_next s
  refine ⟨t, ht, step_sp ht, ?_⟩
  obtain ⟨i, hr, hf, he⟩ | ⟨hr, hf, he⟩ | ⟨hr, he⟩ := step_cases s
  · exact (step_of_decoded (s := { s with sp := v }) hr hf).trans (exec_with_sp (he.symm.trans ht) v)
  · cases he.symm.trans ht
    exact step_of_undecoded (s := { s with sp := v }) hr hf
  · cases he.symm.trans ht
    exact step_of_stopped (s := { s with sp := v }) hr

end Sys2Proof.Machine

namespace Sys2Proof.Machine

/-! ## The canonical form determines memory (log 1) -/

/-- Canonical memories that answer every key of the space alike are the same cells: the first cells agree, since the lower of two
different first keys reads as unlisted in the other memory. -/
theorem Memory.eq_of_lookup {low : Nat} {m m' : Memory} (h : Memory.wfFrom low m = true) (h' : Memory.wfFrom low m' = true)
    (heq : ∀ a < Config.memBytes, m.lookup a = m'.lookup a) : m = m' := by
  induction m generalizing low m' with
  | nil =>
    cases m' with
    | nil => rfl
    | cons c' rest' =>
      obtain ⟨k', v'⟩ := c'
      obtain ⟨_, hk', hv', _⟩ := (Memory.wfFrom_cons ..).1 h'
      exact absurd (by simpa [Memory.lookup] using (heq k' hk').symm) hv'
  | cons c rest ih =>
    obtain ⟨k, v⟩ := c
    obtain ⟨hlow, hk, hv, hrest⟩ := (Memory.wfFrom_cons ..).1 h
    cases m' with
    | nil => exact absurd (by simpa [Memory.lookup] using heq k hk) hv
    | cons c' rest' =>
      obtain ⟨k', v'⟩ := c'
      obtain ⟨hlow', hk', hv', hrest'⟩ := (Memory.wfFrom_cons ..).1 h'
      obtain hlt | rfl | hgt := Nat.lt_trichotomy k k'
      · have hbelow : Memory.lookup ((k', v') :: rest') k = Config.memInit :=
          Memory.lookup_below hlt ((Memory.wfFrom_cons ..).2 ⟨Nat.le_refl k', hk', hv', hrest'⟩)
        exact absurd ((heq k hk).trans hbelow) (by simpa [Memory.lookup] using hv)
      · have hvv : v = v' := by simpa [Memory.lookup] using heq k hk
        have htail : rest = rest' := by
          refine ih hrest hrest' fun a ha => ?_
          by_cases hka : k = a
          · subst hka
            rw [Memory.lookup_below (Nat.lt_succ_self k) hrest, Memory.lookup_below (Nat.lt_succ_self k) hrest']
          · simpa [Memory.lookup, hka] using heq a ha
        rw [hvv, htail]
      · have hbelow : Memory.lookup ((k, v) :: rest) k' = Config.memInit :=
          Memory.lookup_below hgt ((Memory.wfFrom_cons ..).2 ⟨Nat.le_refl k, hk, hv, hrest⟩)
        exact absurd ((heq k' hk').symm.trans hbelow) (by simpa [Memory.lookup] using hv')

/-- Settles O22: reads at all addresses are lookups at all keys of the space. -/
theorem canonicalMemoryIsDetermined : Obligations.CanonicalMemoryIsDetermined := by
  unfold Obligations.CanonicalMemoryIsDetermined
  intro m m' hm hm' hread
  refine Memory.eq_of_lookup hm hm' fun a ha => ?_
  have hword := hread (BitVec.ofNat 16 a)
  rwa [Memory.read, Memory.read, BitVec.toNat_ofNat, Nat.mod_eq_of_lt (show a < 2 ^ 16 from ha)] at hword

/-! ## 16-bit accesses (R44, R45, R47) -/

theorem Memory.read16_of_ne {a : Word} (h : a ≠ 0xFFFF) (m : Memory) :
    m.read16 a = some (hiLo (m.read (a + 1)) (m.read a)) := if_neg h

theorem Memory.write16_of_ne {a : Word} (h : a ≠ 0xFFFF) (m : Memory) (v : Word) :
    m.write16 a v = some ((m.write a (loByte v)).write (a + 1) (hiByte v)) := if_neg h

theorem loByte_toNat (v : Word) : (loByte v).toNat = v.toNat % 256 := BitVec.toNat_setWidth ..

theorem hiByte_toNat (v : Word) : (hiByte v).toNat = v.toNat / 256 := by
  have hlt : v.toNat / 256 < 256 := by omega
  rw [hiByte, BitVec.extractLsb'_toNat, Nat.shiftRight_eq_div_pow, Nat.mod_eq_of_lt hlt]

/-- An address is never the one after it. -/
theorem ne_succ_address (a : Word) : a ≠ a + 1 := by bv_omega

/-- Settles O23: the low byte goes to the address and the high byte to the one after it, which is another address. -/
theorem sixteenBitAccessesRoundTrip : Obligations.SixteenBitAccessesRoundTrip := by
  unfold Obligations.SixteenBitAccessesRoundTrip
  intro m a v hm
  refine ⟨fun h => ⟨if_pos h, if_pos h⟩, fun h => ⟨_, Memory.write16_of_ne h m v, ?_⟩⟩
  have hwf := Memory.write_wf hm a (loByte v)
  have hhi := Memory.read_write_self hwf (a + 1) (hiByte v)
  have hlo : ((m.write a (loByte v)).write (a + 1) (hiByte v)).read a = loByte v :=
    (Memory.read_write_ne _ _ (ne_succ_address a)).trans (Memory.read_write_self hm a _)
  refine ⟨?_, hlo.symm ▸ loByte_toNat v, hhi.symm ▸ hiByte_toNat v, fun b hba hbs => ?_⟩
  · rw [Memory.read16_of_ne h, hlo, hhi, hiLo_hiByte_loByte]
  · rw [Memory.read_write_ne _ _ hbs, Memory.read_write_ne _ _ hba]

/-! ## A store over the next opcode byte (R56) -/

/-- Settles O42: PC is then the address stored at, and the two bytes after it are other addresses. -/
theorem storeIsSeenByTheNextFetch : Obligations.StoreIsSeenByTheNextFetch := by
  unfold Obligations.StoreIsSeenByTheNextFetch
  intro i s ea hwf hs hr hea
  have he := exec_of_resolve hr
  rw [handled_of_store hs, ← hea] at he
  have hself : (s.mem.write ea (s.storedByte i.mnemonic)).read ea = s.storedByte i.mnemonic := Memory.read_write_self hwf ea _
  have hne1 : ea + 1 ≠ ea := (ne_succ_address ea).symm
  have hne2 : ea + 2 ≠ ea := by bv_omega
  refine ⟨_, he, hself, ?_⟩
  change decodeWindow ((s.mem.write ea (s.storedByte i.mnemonic)).read ea)
    ((s.mem.write ea (s.storedByte i.mnemonic)).read (ea + 1)) ((s.mem.write ea (s.storedByte i.mnemonic)).read (ea + 2)) = _
  rw [hself, Memory.read_write_ne _ _ hne1, Memory.read_write_ne _ _ hne2]

end Sys2Proof.Machine

namespace Sys2Proof.Machine

/-! ## Bytes written in a row (R235) -/

/-- Bytes written from an address on, without passing the top of memory, leave every other byte. -/
theorem Memory.read_writeBytes_outside {bytes : List Byte} {m : Memory} {a c : Word} (hfit : a.toNat + bytes.length < 65536)
    (hc : c.toNat < a.toNat ∨ a.toNat + bytes.length ≤ c.toNat) : (m.writeBytes a bytes).read c = m.read c := by
  induction bytes generalizing m a with
  | nil => rfl
  | cons b rest ih =>
    rw [List.length_cons] at hfit hc
    have hnext : (a + 1).toNat = a.toNat + 1 := by bv_omega
    have hne : c ≠ a := by
      rintro rfl
      omega
    rw [Memory.writeBytes, ih (by omega) (by omega), Memory.read_write_ne m b hne]

/-- Bytes written from an address on, without passing the top of memory, stand there in order. -/
theorem Memory.read_writeBytes {bytes : List Byte} {m : Memory} (hm : m.wf = true) {a : Word}
    (hfit : a.toNat + bytes.length < 65536) {k : Nat} {b : Byte} (hk : bytes[k]? = some b) :
    (m.writeBytes a bytes).read (a + BitVec.ofNat 16 k) = b := by
  induction bytes generalizing m a k with
  | nil => cases hk
  | cons b' rest ih =>
    rw [List.length_cons] at hfit
    have hnext : (a + 1).toNat = a.toNat + 1 := by bv_omega
    have hfit' : (a + 1).toNat + rest.length < 65536 := by omega
    cases k with
    | zero =>
      cases hk
      have hzero : a + BitVec.ofNat 16 0 = a := BitVec.add_zero a
      rw [hzero, Memory.writeBytes, Memory.read_writeBytes_outside hfit' (by omega), Memory.read_write_self hm]
    | succ k =>
      have hstep : a + BitVec.ofNat 16 (k + 1) = a + 1 + BitVec.ofNat 16 k := by
        rw [BitVec.add_assoc, Nat.add_comm, BitVec.ofNat_add]
        rfl
      rw [hstep]
      exact ih (Memory.write_wf hm a b') hfit' hk

/-! ## Load (R235 to R237) -/

/-- Memory after a load: the image from 0x8000 on, then the little-endian vector 0x8000 at 0xFFFC. -/
def Memory.loaded (m : Memory) (image : List Byte) : Memory := ((m.writeBytes 0x8000 image).write 0xFFFC 0x00).write 0xFFFD 0x80

theorem Memory.loaded_wf {m : Memory} (hm : m.wf = true) (image : List Byte) : (m.loaded image).wf = true :=
  Memory.write_wf (Memory.write_wf (Memory.writeBytes_wf image hm _) _ _) _ _

theorem load_of_fits {image : List Byte} (h : image.length ≤ 0x7FFC) (s : State) :
    load image s = .next (s.setMem (s.mem.loaded image)) := by
  rw [load, if_pos (show imageFits image = true from decide_eq_true h)]
  rfl

theorem load_of_not_fits {image : List Byte} (h : 0x7FFC < image.length) (s : State) : load image s = .refused .imageTooLong :=
  if_neg fun hfits => Nat.not_le_of_lt h (of_decide_eq_true hfits)

/-- A load that answers a next state leaves the memory above. -/
theorem eq_of_load {image : List Byte} {s t : State} (h : load image s = .next t) : t = s.setMem (s.mem.loaded image) := by
  by_cases hfit : image.length ≤ 0x7FFC
  · exact Host.Outcome.next.inj (h.symm.trans (load_of_fits hfit s))
  · cases (load_of_not_fits (Nat.lt_of_not_le hfit) s).symm.trans h

/-- Outside the vector a loaded memory reads as the image left it. -/
theorem Memory.read_loaded_of_ne (m : Memory) (image : List Byte) {a : Word} (hlo : a ≠ 0xFFFC) (hhi : a ≠ 0xFFFD) :
    (m.loaded image).read a = (m.writeBytes 0x8000 image).read a := by
  rw [Memory.loaded, Memory.read_write_ne _ _ hhi, Memory.read_write_ne _ _ hlo]

theorem Memory.read_loaded_vector {m : Memory} (hm : m.wf = true) (image : List Byte) :
    (m.loaded image).read 0xFFFC = 0x00 ∧ (m.loaded image).read 0xFFFD = 0x80 := by
  have hwf := Memory.writeBytes_wf image hm 0x8000
  refine ⟨?_, Memory.read_write_self (Memory.write_wf hwf _ _) _ _⟩
  rw [Memory.loaded, Memory.read_write_ne _ _ (by decide), Memory.read_write_self hwf]

/-- Settles O51: an image that fits ends below the vector, so the two writes of the vector and those of the image do not meet. -/
theorem loadPlacesImageAndVector : Obligations.LoadPlacesImageAndVector := by
  unfold Obligations.LoadPlacesImageAndVector
  refine fun s image hm => ⟨fun hlen => ?_, fun hlen => load_of_not_fits hlen s⟩
  have hbase : (0x8000 : Word).toNat = 0x8000 := rfl
  have hfit : (0x8000 : Word).toNat + image.length < 65536 := by omega
  obtain ⟨hlo, hhi⟩ := Memory.read_loaded_vector hm image
  refine ⟨s.mem.loaded image, load_of_fits hlen s, fun k b hk => ?_, hlo, hhi, fun a ha hne hne' => ?_, ?_⟩
  · have hklt : k < image.length := (List.getElem?_eq_some_iff.1 hk).1
    have haddr : (0x8000 + BitVec.ofNat 16 k : Word).toNat < 0xFFFC := by
      rw [BitVec.toNat_add, BitVec.toNat_ofNat, hbase]
      omega
    have hne : 0x8000 + BitVec.ofNat 16 k ≠ (0xFFFC : Word) := ne_of_apply_ne BitVec.toNat (Nat.ne_of_lt haddr)
    have hne' : 0x8000 + BitVec.ofNat 16 k ≠ (0xFFFD : Word) := ne_of_apply_ne BitVec.toNat (Nat.ne_of_lt (Nat.lt_succ_of_lt haddr))
    rw [Memory.read_loaded_of_ne _ _ hne hne', Memory.read_writeBytes hm hfit hk]
  · rw [Memory.read_loaded_of_ne _ _ hne hne', Memory.read_writeBytes_outside hfit ha]
  · change hiLo ((s.mem.loaded image).read 0xFFFD) ((s.mem.loaded image).read 0xFFFC) = 0x8000
    rw [hlo, hhi]
    rfl

/-! ## Transactions and Reset (R8, R35, R231 to R234) -/

theorem reset_sound {s : State} (hm : s.mem.wf = true) : s.resetTransaction.Sound := .of_not_aborted hm rfl nofun

theorem reset_resetHeld (s : State) : s.resetTransaction.ResetHeld := ⟨rfl, rfl, rfl, rfl, rfl, rfl, rfl, rfl⟩

theorem powerOn_sound (a x y : Byte) (pc : Word) {m : Memory} (hm : m.wf = true) : (State.powerOn a x y pc m).Sound :=
  .of_not_aborted hm rfl nofun

theorem powerOn_resetHeld (a x y : Byte) (pc : Word) (m : Memory) : (State.powerOn a x y pc m).ResetHeld :=
  ⟨rfl, rfl, rfl, rfl, rfl, rfl, rfl, rfl⟩

theorem State.Sound.setMem {s : State} (hs : s.Sound) {m : Memory} (hm : m.wf = true) : (s.setMem m).Sound := ⟨hm, hs.2⟩

theorem perform_sound {tr : Transaction} {s t : State} (h : perform tr s = .next t) (hs : s.Sound) : t.Sound := by
  cases tr with
  | load image =>
    cases eq_of_load h
    exact hs.setMem (Memory.loaded_wf hs.1 image)
  | reset =>
    cases h
    exact reset_sound hs.1
  | step => exact step_sound hs h
  | run fuel => exact runSteps_keeps (Inv := State.Sound) (fun hst hs => step_sound hs hst) h hs
  | rawWrite a v =>
    cases h
    exact hs.setMem (Memory.write_wf hs.1 a v)
  | rawRead | inspect =>
    cases h
    exact hs

theorem perform_resetHeld {tr : Transaction} {s t : State} (h : perform tr s = .next t) (hs : s.ResetHeld) : t.ResetHeld := by
  cases tr with
  | load image =>
    cases eq_of_load h
    exact hs
  | reset =>
    cases h
    exact reset_resetHeld s
  | step => exact step_resetHeld hs h
  | run fuel => exact runSteps_keeps (Inv := State.ResetHeld) (fun hst hs => step_resetHeld hs hst) h hs
  | rawRead | rawWrite | inspect =>
    cases h
    exact hs

/-- Settles O45: Step and Run keep what a step keeps, Reset establishes it, and the others write memory in its canonical form. -/
theorem transactionsKeepTheInvariants : Obligations.TransactionsKeepTheInvariants := by
  unfold Obligations.TransactionsKeepTheInvariants
  exact fun _ _ _ h => ⟨perform_sound h, perform_resetHeld h⟩

/-- Settles O46: Reset and power-on write every field of the two invariants but memory; State.reset is a Reset. -/
theorem resetEstablishesTheInvariants : Obligations.ResetEstablishesTheInvariants := by
  unfold Obligations.ResetEstablishesTheInvariants
  refine ⟨fun s hm => ⟨reset_sound hm, reset_resetHeld s⟩,
    fun a x y pc m hm => ⟨powerOn_sound a x y pc hm, powerOn_resetHeld a x y pc m⟩, ?_⟩
  rw [reset_eq_resetTransaction 0x00 0x00 0x0000]
  exact ⟨reset_sound rfl, reset_resetHeld _⟩

/-- Settles O50: Reset is one record update, and its PC is the little-endian word at the vector. -/
theorem resetSetsEveryRegisterButY : Obligations.ResetSetsEveryRegisterButY := by
  unfold Obligations.ResetSetsEveryRegisterButY
  exact fun s => ⟨rfl, rfl, rfl, hiLo_toNat ..⟩

/-- Settles O52: at power-on RUN is Halted, and the two registers are constants. -/
theorem powerOnCannotStep : Obligations.PowerOnCannotStep := by
  unfold Obligations.PowerOnCannotStep
  exact fun a x y pc m => ⟨step_of_stopped nofun, rfl, rfl, Flags.toByte_reset⟩

/-- Settles O53: Load and a raw write set memory, the raw write at one address; the other two answer the same state. -/
theorem onlyResetAndStepsChangeRegisters : Obligations.OnlyResetAndStepsChangeRegisters := by
  unfold Obligations.OnlyResetAndStepsChangeRegisters
  intro tr s t h hreset hstep hrun
  cases tr with
  | load image =>
    cases eq_of_load h
    exact ⟨rfl, nofun, by simp⟩
  | reset => exact absurd rfl hreset
  | step => exact absurd rfl hstep
  | run fuel => exact absurd rfl (hrun fuel)
  | rawWrite a v =>
    cases h
    refine ⟨rfl, fun a' v' e hm => ?_, by simp⟩
    cases e
    exact ⟨Memory.read_write_self hm a v, fun b hb => Memory.read_write_ne s.mem v hb⟩
  | rawRead | inspect =>
    cases h
    exact ⟨rfl, nofun, fun _ => rfl⟩

theorem runSteps_next (fuel : Nat) (s : State) : ∃ t, runSteps fuel s = .next t := by
  induction fuel generalizing s with
  | zero => exact ⟨s, rfl⟩
  | succ fuel ih =>
    obtain ⟨u, hu⟩ := step_next s
    rw [runSteps_succ hu]
    exact ih u

/-- Settles O54: a run may be cut anywhere, and a run of one step is that step. -/
theorem runIsStepsInSequence : Obligations.RunIsStepsInSequence := by
  unfold Obligations.RunIsStepsInSequence
  intro s m n
  obtain ⟨t, ht⟩ := runSteps_next m s
  obtain ⟨u, hu⟩ := step_next s
  refine ⟨t, ht, runSteps_add ht n, fun _ => ?_⟩
  rw [hu]
  exact runSteps_succ hu 0

end Sys2Proof.Machine

namespace Sys2Proof.Machine

/-! ## The accesses of an instruction (R59) -/

/-- The addresses of the operand-byte and pointer reads of a mode, in order. -/
def State.operandAddresses (s : State) : Operand → List Word
  | .implicit | .immediate _ => []
  | .zeroPage _ | .zeroPageX _ | .zeroPageY _ => [s.pc + 1]
  | .absolute _ | .absoluteX _ | .absoluteY _ => [s.pc + 1, s.pc + 2]
  | .indirectX d8 => [s.pc + 1, zext16 (d8 + s.x), zext16 (d8 + s.x + 1)]
  | .indirectY d8 => [s.pc + 1, zext16 d8, zext16 (d8 + 1)]

theorem operandAccesses_eq (s : State) (o : Operand) : s.operandAccesses o = (s.operandAddresses o).map s.readAccess := by
  cases o <;> rfl

theorem operand_eq_implicit {i : Instr} (h : i.mnemonic.needsAddress = false) : i.operand = .implicit := by
  have hmode : i.operand.mode = .implicit := by
    by_contra hne
    simp [(needsAddress_iff i).2 hne] at h
  cases ho : i.operand <;> rw [ho] at hmode <;> cases hmode

theorem isStore_of_not_needsAddress {m : Mnemonic} (h : m.needsAddress = false) : m.isStore = false := by
  cases hs : m.isStore with
  | false => rfl
  | true => cases (needsAddress_of_store hs).symm.trans h

theorem instrAccesses_of_implicit {i : Instr} (h : i.mnemonic.needsAddress = false) (s : State) : s.instrAccesses i = [] := by
  simp [State.instrAccesses, h]

/-- The accesses of an instruction whose address resolves: those of its mode, then the data access. -/
theorem instrAccesses_of_resolve {s : State} {i : Instr} {ea : Word} (hr : s.preAdvance.resolve i.operand = .ok ea) :
    s.instrAccesses i = s.operandAccesses i.operand ++ s.dataAccess i.mnemonic ea := by
  simp only [State.instrAccesses, (needsAddress_iff i).2 (mode_ne_implicit_of_resolve hr), hr, if_true]

theorem dataAccess_of_store {m : Mnemonic} (h : m.isStore = true) (s : State) (ea : Word) :
    s.dataAccess m ea = [.write ea (s.storedByte m)] := if_pos h

/-- The data access of a load or an ADC is the read at the address. -/
theorem dataAccess_of_read {m : Mnemonic} (hs : m.isStore = false) (hn : m.needsAddress = true) (s : State) (ea : Word) :
    s.dataAccess m ea = [s.readAccess ea] := by
  simp [State.dataAccess, hs, hn]

/-- Settles O47: outside the window an instruction that needs an address has the accesses of its mode and the data access, and the
others have none. -/
theorem accessesOfEachMode : Obligations.AccessesOfEachMode := by
  unfold Obligations.AccessesOfEachMode
  intro s i hr hf hw
  refine ⟨s.operandAddresses i.operand, ?_, by cases i.operand <;> rfl⟩
  rw [busAccesses_of_fetched hr hf, List.map_cons, List.cons_append, ← operandAccesses_eq]
  refine congrArg (s.readAccess s.pc :: ·) ?_
  cases hn : i.mnemonic.needsAddress with
  | true =>
    obtain ⟨ea, _, hres, _⟩ := exec_of_address i s hn hw
    rw [instrAccesses_of_resolve hres, hres]
  | false =>
    rw [instrAccesses_of_implicit hn, operand_eq_implicit hn]
    rfl

/-! ## Writes (R49, R58) -/

/-- Only the writes of a list of accesses change memory. -/
theorem Memory.applyWrites_filter (l : List Access) (m : Memory) : m.applyWrites (l.filter Access.isWrite) = m.applyWrites l := by
  induction l generalizing m with
  | nil => rfl
  | cons acc rest ih =>
    cases acc with
    | read a v => exact ih m
    | write a v => exact ih (m.write a v)

/-- The writes of an instruction outside the window: a store's one, and none of any other. -/
theorem filter_isWrite_instrAccesses {s : State} {i : Instr} {ea : Word}
    (h : i.mnemonic.needsAddress = true → s.preAdvance.resolve i.operand = .ok ea) :
    (s.instrAccesses i).filter Access.isWrite =
      if i.mnemonic.isStore then [.write ea (s.storedByte i.mnemonic)] else [] := by
  cases hn : i.mnemonic.needsAddress with
  | false =>
    rw [instrAccesses_of_implicit hn, isStore_of_not_needsAddress hn]
    rfl
  | true =>
    rw [instrAccesses_of_resolve (h hn), List.filter_append, operandAccesses_filter_isWrite]
    cases hs : i.mnemonic.isStore with
    | true =>
      rw [dataAccess_of_store hs]
      rfl
    | false =>
      rw [dataAccess_of_read hs hn]
      rfl

theorem busAccesses_of_stopped {s : State} (hr : s.run ≠ .running) : busAccesses s = [] := by
  cases h : s.run with
  | running => exact absurd h hr
  | halted | aborted => simp only [busAccesses, h]

@[simp] theorem preAdvance_storedByte (s : State) (m : Mnemonic) : s.preAdvance.storedByte m = s.storedByte m := by
  cases m <;> rfl

/-- The writes of a step, and memory after it: a store's one write outside the window, none otherwise. -/
theorem step_writes {s t : State} (h : step s = .next t) :
    ((busAccesses s).filter Access.isWrite = [] ∧ t.mem = s.mem) ∨
      ∃ a v, (busAccesses s).filter Access.isWrite = [.write a v] ∧ t.mem = s.mem.write a v := by
  by_cases hr : s.run = .running
  · obtain ⟨i, ea, b, hf, _, hres, he⟩ | ⟨i, hf, hw, he⟩ | ⟨hf, he⟩ := step_of_running hr <;> cases he.symm.trans h
    · have hmem := handled_mem i.mnemonic ea b s.preAdvance
      have hacc : (busAccesses s).filter Access.isWrite = _ :=
        (congrArg _ (busAccesses_of_fetched hr hf)).trans (filter_isWrite_instrAccesses fun hn => (hres hn).1)
      cases hs : i.mnemonic.isStore with
      | true => exact .inr ⟨_, _, by simpa [hs] using hacc, by simpa [hs] using hmem⟩
      | false => exact .inl ⟨by simpa [hs] using hacc, by simpa [hs] using hmem⟩
    · rw [busAccesses_of_fetched hr hf, instrAccesses_in_window hw]
      exact .inl ⟨rfl, rfl⟩
    · rw [busAccesses_without_row hr hf]
      exact .inl ⟨rfl, rfl⟩
  · cases (step_of_stopped hr).symm.trans h
    exact .inl ⟨by rw [busAccesses_of_stopped hr]; rfl, rfl⟩

/-- Settles O49: memory after a list of accesses is memory after its writes, of which a step has at most one. -/
theorem stepWritesOnlyItsWrites : Obligations.StepWritesOnlyItsWrites := by
  unfold Obligations.StepWritesOnlyItsWrites
  intro s
  obtain ⟨t, ht⟩ := step_next s
  refine ⟨t, ht, ?_⟩
  rw [← Memory.applyWrites_filter]
  obtain ⟨hacc, hmem⟩ | ⟨a, v, hacc, hmem⟩ := step_writes ht <;> rw [hacc, hmem]
  · exact ⟨rfl, Nat.zero_le 1⟩
  · exact ⟨rfl, Nat.le_refl 1⟩

end Sys2Proof.Machine

namespace Sys2Proof.Machine

open Stated

/-! ## The reads of a step, and what it does in another memory (R59, log 10) -/

theorem setMem_memRead (s : State) (m : Memory) (a : Word) : (s.setMem m).memRead a = m.read a := rfl

theorem setMem_inWindow (s : State) (m : Memory) (i : Instr) : (s.setMem m).inWindow i = s.inWindow i := rfl

theorem readAccess_setMem {s : State} {m : Memory} {a : Word} (h : m.read a = s.mem.read a) :
    (s.setMem m).readAccess a = s.readAccess a := by
  rw [State.readAccess, State.readAccess, setMem_memRead, memRead_eq, h]

/-- The mode's reads are the same in a memory that answers them alike. -/
theorem operandAccesses_setMem {s : State} {m : Memory} {o : Operand}
    (h : ∀ a ∈ s.operandAddresses o, m.read a = s.mem.read a) : (s.setMem m).operandAccesses o = s.operandAccesses o := by
  have haddr : (s.setMem m).operandAddresses o = s.operandAddresses o := by cases o <;> rfl
  rw [operandAccesses_eq, operandAccesses_eq, haddr]
  exact List.map_congr_left fun a ha => readAccess_setMem (h a ha)

/-- The address is the same in a memory that answers the mode's reads alike: it depends on memory by the two pointer bytes alone. -/
theorem resolve_setMem {s : State} {m : Memory} {o : Operand} (h : ∀ a ∈ s.operandAddresses o, m.read a = s.mem.read a) :
    (s.setMem m).preAdvance.resolve o = s.preAdvance.resolve o := by
  cases o with
  | implicit | immediate | zeroPage | zeroPageX | zeroPageY | absolute | absoluteX | absoluteY => rfl
  | indirectX d8 | indirectY d8 =>
    simp only [State.operandAddresses, List.forall_mem_cons] at h
    obtain ⟨_, hlo, hhi, _⟩ := h
    simp only [State.resolve, Memory.zpRead16, preAdvance_mem, setMem_mem, preAdvance_x, setMem_x, preAdvance_y, setMem_y, hlo, hhi]

/-- The data access is the same in a memory that answers it alike, if it is a read. -/
theorem dataAccess_setMem {s : State} {m : Memory} {mn : Mnemonic} {ea : Word}
    (h : mn.isStore = false → m.read ea = s.mem.read ea) : (s.setMem m).dataAccess mn ea = s.dataAccess mn ea := by
  have hstored : (s.setMem m).storedByte mn = s.storedByte mn := by cases mn <;> rfl
  cases hs : mn.isStore with
  | true => rw [dataAccess_of_store hs, dataAccess_of_store hs, hstored]
  | false => rw [State.dataAccess, State.dataAccess, hs, readAccess_setMem (h hs)]; rfl

theorem dataByte_setMem {s : State} {m : Memory} {ea : Word} (h : m.read ea = s.mem.read ea) (o : Operand) :
    (s.setMem m).dataByte o ea = s.dataByte o ea := by
  cases o with
  | immediate => rfl
  | implicit | zeroPage | zeroPageX | zeroPageY | absolute | absoluteX | absoluteY | indirectX | indirectY => exact h

/-- A handler does the same in another memory, given the same address, and the same byte if it uses one. -/
theorem handled_setMem {mn : Mnemonic} {b b' : Byte} (h : mn.isStore = false → b' = b) (ea : Word) (s : State) (m : Memory) :
    (handled mn ea b' (s.setMem m)).setMem (handled mn ea b s).mem = handled mn ea b s := by
  cases mn with
  | sta | stx | sty => rfl
  | lda | ldx | ldy | tax | inx | adc | brk =>
    obtain rfl := h rfl
    rfl

section
variable {s : State} {i : Instr} {m : Memory}

/-- A memory that answers the reads of an instruction alike answers those of its mode and the data read alike. -/
theorem answers_of_resolve {ea : Word} (hr : s.preAdvance.resolve i.operand = .ok ea)
    (h : ∀ a, s.readAccess a ∈ s.instrAccesses i → m.read a = s.mem.read a) :
    (∀ a ∈ s.operandAddresses i.operand, m.read a = s.mem.read a) ∧
      (i.mnemonic.isStore = false → m.read ea = s.mem.read ea) := by
  rw [instrAccesses_of_resolve hr, operandAccesses_eq] at h
  refine ⟨fun a ha => h a (List.mem_append_left _ (List.mem_map_of_mem ha)), fun hs => h ea (List.mem_append_right _ ?_)⟩
  rw [dataAccess_of_read hs ((needsAddress_iff i).2 (mode_ne_implicit_of_resolve hr))]
  exact List.mem_singleton_self _

/-- Outside the window an instruction makes the same accesses and leaves the same state, but for memory, in a memory that answers
its reads alike. -/
theorem exec_setMem (hw : s.inWindow i = false) (h : ∀ a, s.readAccess a ∈ s.instrAccesses i → m.read a = s.mem.read a) :
    (s.setMem m).instrAccesses i = s.instrAccesses i ∧
      ∃ t t', exec i s = .next t ∧ exec i (s.setMem m) = .next t' ∧ t'.setMem t.mem = t := by
  cases hn : i.mnemonic.needsAddress with
  | false =>
    refine ⟨by rw [instrAccesses_of_implicit hn, instrAccesses_of_implicit hn], _, _, exec_of_implicit i s hn,
      exec_of_implicit i (s.setMem m) hn, ?_⟩
    exact congrArg (State.setPc · (s.pc + BitVec.ofNat 16 i.length)) (handled_setMem (fun _ => rfl) 0 s.preAdvance m)
  | true =>
    obtain ⟨ea, _, hr, _⟩ := exec_of_address i s hn hw
    obtain ⟨hops, hdata⟩ := answers_of_resolve hr h
    have hr' : (s.setMem m).preAdvance.resolve i.operand = .ok ea := (resolve_setMem hops).trans hr
    refine ⟨?_, _, _, exec_of_resolve hr, exec_of_resolve hr', ?_⟩
    · rw [instrAccesses_of_resolve hr', instrAccesses_of_resolve hr, operandAccesses_setMem hops, dataAccess_setMem hdata]
    · have hb := fun hs => dataByte_setMem (s := s.preAdvance) (hdata hs) i.operand
      exact congrArg (State.setPc · (s.pc + BitVec.ofNat 16 i.length)) (handled_setMem hb ea s.preAdvance m)

/-- Outside the window the reads of an instruction include its operand bytes. -/
theorem operandBytes_setMem (hw : s.inWindow i = false)
    (h : ∀ a, s.readAccess a ∈ s.instrAccesses i → m.read a = s.mem.read a) :
    [m.read (s.pc + 1), m.read (s.pc + 2)].take i.mode.operandBytes =
      [s.mem.read (s.pc + 1), s.mem.read (s.pc + 2)].take i.mode.operandBytes := by
  cases hn : i.mnemonic.needsAddress with
  | false =>
    rw [Instr.mode, operand_eq_implicit hn]
    rfl
  | true =>
    obtain ⟨ea, _, hr, _⟩ := exec_of_address i s hn hw
    obtain ⟨hops, hdata⟩ := answers_of_resolve hr h
    cases ho : i.operand with
    | implicit => rw [Instr.mode, ho]; rfl
    | immediate d8 =>
      have hmode : i.mode = .immediate := by rw [Instr.mode, ho]; rfl
      rw [ho] at hr
      cases hr
      rw [hmode]
      exact congrArg (fun b => [b]) (hdata (isStore_of_immediate hmode))
    | zeroPage | zeroPageX | zeroPageY | indirectX | indirectY =>
      rw [Instr.mode, ho]
      rw [ho] at hops
      exact congrArg (fun b => [b]) (hops (s.pc + 1) List.mem_cons_self)
    | absolute | absoluteX | absoluteY =>
      rw [Instr.mode, ho]
      rw [ho] at hops
      have h1 := hops (s.pc + 1) List.mem_cons_self
      have h2 := hops (s.pc + 2) (List.mem_cons_of_mem _ List.mem_cons_self)
      rw [h1, h2]

/-- The opcode byte decides the mode. -/
theorem mode_eq_of_opcode_eq {j : Instr} (h : i.opcode = j.opcode) : i.mode = j.mode := by
  have hrows := (opcodeLookup_opcode i).symm.trans ((congrArg _ (congrArg _ h)).trans (opcodeLookup_opcode j))
  simp only [Option.some.injEq, Prod.mk.injEq] at hrows
  exact hrows.2.1

/-- Inside the window the operand bytes play no part: the step in a memory with the same opcode byte aborts alike. -/
theorem step_setMem_in_window (hr : s.run = .running) (hf : s.fetchInstr = some i) (hw : s.inWindow i = true)
    (hop : m.read s.pc = s.mem.read s.pc) :
    busAccesses (s.setMem m) = busAccesses s ∧
      step (s.setMem m) = .next (abortedAt (s.setMem m) .read16Window (s.mem.read s.pc)) := by
  obtain ⟨d, hd, _⟩ := exists_row_of_decodeWindow hf
  obtain ⟨j, hfj, _⟩ := exists_decodeWindow_of_row hd (m.read (s.pc + 1)) (m.read (s.pc + 2))
  have hf' : (s.setMem m).fetchInstr = some j := by rwa [memRead_eq, ← hop] at hfj
  have hmode : i.mode = j.mode := by
    refine mode_eq_of_opcode_eq ?_
    rw [← (fetchInstr_eq_some_iff.1 hf).1, ← (fetchInstr_eq_some_iff.1 hf').1]
    exact hop.symm
  have hw' : (s.setMem m).inWindow j = true := by rwa [setMem_inWindow, State.inWindow, ← hmode]
  rw [busAccesses_of_fetched (s := s.setMem m) hr hf', busAccesses_of_fetched hr hf, instrAccesses_in_window hw,
    instrAccesses_in_window hw', step_in_window (s := s.setMem m) hr hf' hw', setMem_mem, setMem_pc, hop]
  exact ⟨rfl, rfl⟩

end

/-- Settles O48: the reads hold the opcode byte, the operand bytes outside the window, and what the instruction reads; inside it the
opcode byte alone decides. -/
theorem stepDependsOnlyOnItsReads : Obligations.StepDependsOnlyOnItsReads := by
  unfold Obligations.StepDependsOnlyOnItsReads
  intro s m h
  by_cases hr : s.run = .running
  · have hr' : (s.setMem m).run = .running := hr
    cases hf : s.fetchInstr with
    | none =>
      have hop : m.read s.pc = s.mem.read s.pc := by
        rw [busAccesses_without_row hr hf] at h
        exact h _ _ List.mem_cons_self
      have hf' : (s.setMem m).fetchInstr = none := by
        rw [fetchInstr_eq_none_iff] at hf ⊢
        exact hop ▸ hf
      refine ⟨?_, _, _, step_without_row hr hf, step_without_row hr' hf', ?_⟩
      · rw [busAccesses_without_row hr' hf', busAccesses_without_row hr hf, setMem_mem, setMem_pc, hop]
      · rw [setMem_mem, setMem_pc, hop]
        rfl
    | some i =>
      rw [busAccesses_of_fetched hr hf] at h ⊢
      have hop : m.read s.pc = s.mem.read s.pc := h _ _ List.mem_cons_self
      cases hw : s.inWindow i with
      | true =>
        obtain ⟨hacc, hstep⟩ := step_setMem_in_window hr hf hw hop
        exact ⟨hacc.trans (busAccesses_of_fetched hr hf), _, _, step_in_window hr hf hw, hstep, rfl⟩
      | false =>
        have hreads : ∀ a, s.readAccess a ∈ s.instrAccesses i → m.read a = s.mem.read a := fun a ha =>
          h a _ (List.mem_cons_of_mem _ ha)
        have hf' : (s.setMem m).fetchInstr = some i := by
          rw [fetchInstr_eq_some_iff] at hf ⊢
          exact ⟨hop.trans hf.1, hf.2.trans (operandBytes_setMem hw hreads).symm⟩
        obtain ⟨hacc, hexec⟩ := exec_setMem hw hreads
        rw [busAccesses_of_fetched hr' hf', hacc, step_of_decoded hr hf, step_of_decoded hr' hf', setMem_mem, setMem_pc, hop]
        exact ⟨rfl, hexec⟩
  · have hr' : (s.setMem m).run ≠ .running := hr
    refine ⟨?_, _, _, step_of_stopped hr, step_of_stopped hr', rfl⟩
    rw [busAccesses_of_stopped hr, busAccesses_of_stopped hr']

end Sys2Proof.Machine
